-- ==== Sys2Proof/Word.lean ====
section
/-! DEFINITION. The plain types of the 8086 decoder block: bytes, words, 3-bit register fields, text lines (00_scope R5, R6). -/

namespace Sys2Proof

/-- A byte of the stream: 8 bits, bit 7 the most significant (R6). -/
abbrev Byte := BitVec 8

/-- A word: 16 bits (R6); the width of a register (R5 `XLEN`). -/
abbrev Word := BitVec 16

/-- A 3-bit register or register/memory field, 0 to 7 (R66, R78). -/
abbrev Reg3 := BitVec 3

/-- One line of text, without its newline (R28). -/
abbrev Text := String

end Sys2Proof
end

