-- ==== Sys2Proof/Config.lean ====
section
/-! DEFINITION. What the hardware fixes (00_scope R5) and the free values (40_decoder_and_step R117). -/

namespace Sys2Proof

/-- Number of general registers (R5 `NREG`). -/
def Config.nreg : Nat := 8

/-- Number of registers with byte halves (R5 `NHALF`): registers 0 to 3. -/
def Config.nhalf : Nat := 4

/-- Shortest instruction in bytes (R5 `MINLEN`, R75). -/
def Config.minLen : Nat := 2

/-- Longest instruction in bytes (R5 `MAXLEN`, R75). -/
def Config.maxLen : Nat := 6

/-- FREE VALUE (log entry 4): what follows the `;` in each debug line printed before an instruction's own line, for a
value of `State.debugSource`, a cursor and the bytes of the stream. R117: their number, position and content are not in
the document. No value of it can be proved. DESIGN CHOICE: they depend on these three alone, not on the registers or on
what was printed. -/
opaque Config.debugLinesBefore (source cursor : Nat) (stream : List Byte) : List Text

/-- FREE VALUE (log entry 4): the same for the debug lines printed after an instruction's own line. -/
opaque Config.debugLinesAfter (source cursor : Nat) (stream : List Byte) : List Text

/-- FREE VALUE (log entry 4): the value of `State.debugSource` for the next instruction's debug lines. It has no body, so
the field counts nothing: no claim can learn from it how many instructions ran (60_exceptions R261). -/
opaque Config.nextDebugSource : Nat → Nat

end Sys2Proof
end

