-- ==== Sys2Proof/Syntax.lean ====
section
/-! DEFINITION. The syntax: operand forms, the 56 instructions (one constructor per row of spec/opcode_table.json),
the class tags, the operations, and the decoded record (40_decoder_and_step R103). -/

namespace Sys2Proof

/-- The operand named by `mod` and `rm` (30_encoding R67, R68, R69; 43_arith_imm_rm R152; 44_rm_reg R166). -/
inductive RmOperand where
  /-- `mod = 0b11`: register `rm` at the instruction's width. -/
  | reg (rm : Reg3)
  /-- `mod = 0b00`: base expression `rm`, no displacement. -/
  | mem0 (rm : Reg3)
  /-- `mod = 0b01`: base expression `rm` plus an 8-bit displacement. -/
  | mem8 (rm : Reg3) (disp : Byte)
  /-- `mod = 0b10`: base expression `rm` plus a 16-bit displacement. -/
  | mem16 (rm : Reg3) (disp : Word)
  /-- `mod = 0b00`, `rm = 0b110`, class 3 only: the 16-bit direct address. -/
  | direct (addr : Word)
deriving DecidableEq, Repr

/-- The instructions. Byte-valued immediates and displacements are the bytes of the encoding. -/
inductive Instr where
  /-- R131. `mov reg8, imm8`, first byte 0xB0 + reg. -/
  | movReg8Imm8 (reg : Reg3) (imm : Byte)
  /-- R132. `mov reg16, imm16`, first byte 0xB8 + reg. -/
  | movReg16Imm16 (reg : Reg3) (imm : Word)
  /-- R141. `add al, imm8`, first byte 0x04. -/
  | addAlImm8 (imm : Byte)
  /-- R142. `add ax, imm16`, first byte 0x05. -/
  | addAxImm16 (imm : Word)
  /-- R143. `sub al, imm8`, first byte 0x2C. -/
  | subAlImm8 (imm : Byte)
  /-- R144. `sub ax, imm16`, first byte 0x2D. -/
  | subAxImm16 (imm : Word)
  /-- R145. `cmp al, imm8`, first byte 0x3C. -/
  | cmpAlImm8 (imm : Byte)
  /-- R146. `cmp ax, imm16`, first byte 0x3D. -/
  | cmpAxImm16 (imm : Word)
  /-- R153. `add r/m8, imm8`, first byte 0x80 (s = 0, w = 0). -/
  | addRm8Imm8 (rm : RmOperand) (imm : Byte)
  /-- R153. `add r/m16, imm16`, first byte 0x81 (s = 0, w = 1). -/
  | addRm16Imm16 (rm : RmOperand) (imm : Word)
  /-- R153. `add r/m8, imm8`, first byte 0x82 (s = 1, w = 0): the table's second row of this mnemonic. -/
  | addRm8Imm8S (rm : RmOperand) (imm : Byte)
  /-- R153. `add r/m16, simm8`, first byte 0x83 (s = 1, w = 1). -/
  | addRm16Simm8 (rm : RmOperand) (imm : Byte)
  /-- R154. `sub r/m8, imm8`, first byte 0x80 (s = 0, w = 0). -/
  | subRm8Imm8 (rm : RmOperand) (imm : Byte)
  /-- R154. `sub r/m16, imm16`, first byte 0x81 (s = 0, w = 1). -/
  | subRm16Imm16 (rm : RmOperand) (imm : Word)
  /-- R154. `sub r/m8, imm8`, first byte 0x82 (s = 1, w = 0): the table's second row of this mnemonic. -/
  | subRm8Imm8S (rm : RmOperand) (imm : Byte)
  /-- R154. `sub r/m16, simm8`, first byte 0x83 (s = 1, w = 1). -/
  | subRm16Simm8 (rm : RmOperand) (imm : Byte)
  /-- R155. `cmp r/m8, imm8`, first byte 0x80 (s = 0, w = 0). -/
  | cmpRm8Imm8 (rm : RmOperand) (imm : Byte)
  /-- R155. `cmp r/m16, imm16`, first byte 0x81 (s = 0, w = 1). -/
  | cmpRm16Imm16 (rm : RmOperand) (imm : Word)
  /-- R155. `cmp r/m8, imm8`, first byte 0x82 (s = 1, w = 0): the table's second row of this mnemonic. -/
  | cmpRm8Imm8S (rm : RmOperand) (imm : Byte)
  /-- R155. `cmp r/m16, simm8`, first byte 0x83 (s = 1, w = 1). -/
  | cmpRm16Simm8 (rm : RmOperand) (imm : Byte)
  /-- R167. `mov r/m8, reg8`, first byte 0x88 (d = 0, w = 0). -/
  | movRm8Reg8 (rm : RmOperand) (reg : Reg3)
  /-- R167. `mov r/m16, reg16`, first byte 0x89 (d = 0, w = 1). -/
  | movRm16Reg16 (rm : RmOperand) (reg : Reg3)
  /-- R167. `mov reg8, r/m8`, first byte 0x8A (d = 1, w = 0). -/
  | movReg8Rm8 (rm : RmOperand) (reg : Reg3)
  /-- R167. `mov reg16, r/m16`, first byte 0x8B (d = 1, w = 1). -/
  | movReg16Rm16 (rm : RmOperand) (reg : Reg3)
  /-- R168. `add r/m8, reg8`, first byte 0x00 (d = 0, w = 0). -/
  | addRm8Reg8 (rm : RmOperand) (reg : Reg3)
  /-- R168. `add r/m16, reg16`, first byte 0x01 (d = 0, w = 1). -/
  | addRm16Reg16 (rm : RmOperand) (reg : Reg3)
  /-- R168. `add reg8, r/m8`, first byte 0x02 (d = 1, w = 0). -/
  | addReg8Rm8 (rm : RmOperand) (reg : Reg3)
  /-- R168. `add reg16, r/m16`, first byte 0x03 (d = 1, w = 1). -/
  | addReg16Rm16 (rm : RmOperand) (reg : Reg3)
  /-- R169. `sub r/m8, reg8`, first byte 0x28 (d = 0, w = 0). -/
  | subRm8Reg8 (rm : RmOperand) (reg : Reg3)
  /-- R169. `sub r/m16, reg16`, first byte 0x29 (d = 0, w = 1). -/
  | subRm16Reg16 (rm : RmOperand) (reg : Reg3)
  /-- R169. `sub reg8, r/m8`, first byte 0x2A (d = 1, w = 0). -/
  | subReg8Rm8 (rm : RmOperand) (reg : Reg3)
  /-- R169. `sub reg16, r/m16`, first byte 0x2B (d = 1, w = 1). -/
  | subReg16Rm16 (rm : RmOperand) (reg : Reg3)
  /-- R170. `cmp r/m8, reg8`, first byte 0x38 (d = 0, w = 0). -/
  | cmpRm8Reg8 (rm : RmOperand) (reg : Reg3)
  /-- R170. `cmp r/m16, reg16`, first byte 0x39 (d = 0, w = 1). -/
  | cmpRm16Reg16 (rm : RmOperand) (reg : Reg3)
  /-- R170. `cmp reg8, r/m8`, first byte 0x3A (d = 1, w = 0). -/
  | cmpReg8Rm8 (rm : RmOperand) (reg : Reg3)
  /-- R170. `cmp reg16, r/m16`, first byte 0x3B (d = 1, w = 1). -/
  | cmpReg16Rm16 (rm : RmOperand) (reg : Reg3)
  /-- R181. `jo`, first byte 0x70. -/
  | jo (disp : Byte)
  /-- R182. `jno`, first byte 0x71. -/
  | jno (disp : Byte)
  /-- R183. `jb`, first byte 0x72. -/
  | jb (disp : Byte)
  /-- R184. `jnb`, first byte 0x73. -/
  | jnb (disp : Byte)
  /-- R185. `jz`, first byte 0x74. -/
  | jz (disp : Byte)
  /-- R186. `jnz`, first byte 0x75. -/
  | jnz (disp : Byte)
  /-- R187. `jbe`, first byte 0x76. -/
  | jbe (disp : Byte)
  /-- R188. `ja`, first byte 0x77. -/
  | ja (disp : Byte)
  /-- R189. `js`, first byte 0x78. -/
  | js (disp : Byte)
  /-- R190. `jns`, first byte 0x79. -/
  | jns (disp : Byte)
  /-- R191. `jp`, first byte 0x7A. -/
  | jp (disp : Byte)
  /-- R192. `jnp`, first byte 0x7B. -/
  | jnp (disp : Byte)
  /-- R193. `jl`, first byte 0x7C. -/
  | jl (disp : Byte)
  /-- R194. `jnl`, first byte 0x7D. -/
  | jnl (disp : Byte)
  /-- R195. `jle`, first byte 0x7E. -/
  | jle (disp : Byte)
  /-- R196. `jg`, first byte 0x7F. -/
  | jg (disp : Byte)
  /-- R197. `loopnz`, first byte 0xE0. -/
  | loopnz (disp : Byte)
  /-- R198. `loopz`, first byte 0xE1. -/
  | loopz (disp : Byte)
  /-- R199. `loop`, first byte 0xE2. -/
  | loop (disp : Byte)
  /-- R200. `jcxz`, first byte 0xE3. -/
  | jcxz (disp : Byte)
deriving DecidableEq, Repr

/-- The six class tags of the record (R101, R103). -/
inductive ClassTag where
  | immToRegMov
  | immToAccArith
  | immToRmArith
  | rmReg
  | condJump
  | loop
deriving DecidableEq, Repr

/-- The operation of the record (R103): 4 plus the 20 mnemonics of R82; 24 in all (R223). -/
inductive Op where
  | mov | add | sub | cmp
  | jo | jno | jb | jnb | jz | jnz | jbe | ja | js | jns | jp | jnp | jl | jnl | jle | jg
  | loopnz | loopz | loop | jcxz
deriving DecidableEq, Repr

/-- The addressing-mode tag (R67): register-direct, and memory with a displacement of 0, 8 or 16 bits. -/
inductive Mode where
  | reg | mem0 | mem8 | mem16
deriving DecidableEq, Repr

/-- The decoded record `D` (R103). A field the class does not have is `none` (R104). `w`, `d`, `s`, `direct` are the
bits, `true` for 1. -/
structure Record where
  classTag : ClassTag
  op       : Op
  w        : Option Bool
  d        : Option Bool
  s        : Option Bool
  mode     : Option Mode
  reg      : Option Reg3
  rm       : Option Reg3
  direct   : Option Bool
  addr     : Option Word
  dispSize : Option Nat
  disp     : Option Word
  immSize  : Option Nat
  imm      : Option Word
  jdisp    : Option Int
  length   : Nat
deriving DecidableEq, Repr

end Sys2Proof
end

