-- ==== Sys2Proof/WellFormed.lean ====
section
/-! DEFINITION. Which terms are instructions of the block: the operand forms each class admits (43_arith_imm_rm R152,
44_rm_reg R166, R171). Every value of every other field is legal (30_encoding R89). -/

namespace Sys2Proof

/-- Class 3 admits every form, but `mod = 0b00` with `rm = 0b110` is the direct address, not a base expression (R68). -/
def RmOperand.class3Ok : RmOperand → Bool
  | .mem0 rm => rm != 6#3
  | .reg _ | .mem8 _ _ | .mem16 _ _ | .direct _ => true

/-- Class 4 has no direct address (R69, R171). -/
def RmOperand.class4Ok : RmOperand → Bool
  | .direct _ => false
  | .reg _ | .mem0 _ | .mem8 _ _ | .mem16 _ _ => true

/-- An instruction that some byte string encodes. -/
def Instr.wellFormed : Instr → Bool
  | .movReg8Imm8 _ _ => true
  | .movReg16Imm16 _ _ => true
  | .addAlImm8 _ => true
  | .addAxImm16 _ => true
  | .subAlImm8 _ => true
  | .subAxImm16 _ => true
  | .cmpAlImm8 _ => true
  | .cmpAxImm16 _ => true
  | .addRm8Imm8 rm _ => rm.class3Ok
  | .addRm16Imm16 rm _ => rm.class3Ok
  | .addRm8Imm8S rm _ => rm.class3Ok
  | .addRm16Simm8 rm _ => rm.class3Ok
  | .subRm8Imm8 rm _ => rm.class3Ok
  | .subRm16Imm16 rm _ => rm.class3Ok
  | .subRm8Imm8S rm _ => rm.class3Ok
  | .subRm16Simm8 rm _ => rm.class3Ok
  | .cmpRm8Imm8 rm _ => rm.class3Ok
  | .cmpRm16Imm16 rm _ => rm.class3Ok
  | .cmpRm8Imm8S rm _ => rm.class3Ok
  | .cmpRm16Simm8 rm _ => rm.class3Ok
  | .movRm8Reg8 rm _ => rm.class4Ok
  | .movRm16Reg16 rm _ => rm.class4Ok
  | .movReg8Rm8 rm _ => rm.class4Ok
  | .movReg16Rm16 rm _ => rm.class4Ok
  | .addRm8Reg8 rm _ => rm.class4Ok
  | .addRm16Reg16 rm _ => rm.class4Ok
  | .addReg8Rm8 rm _ => rm.class4Ok
  | .addReg16Rm16 rm _ => rm.class4Ok
  | .subRm8Reg8 rm _ => rm.class4Ok
  | .subRm16Reg16 rm _ => rm.class4Ok
  | .subReg8Rm8 rm _ => rm.class4Ok
  | .subReg16Rm16 rm _ => rm.class4Ok
  | .cmpRm8Reg8 rm _ => rm.class4Ok
  | .cmpRm16Reg16 rm _ => rm.class4Ok
  | .cmpReg8Rm8 rm _ => rm.class4Ok
  | .cmpReg16Rm16 rm _ => rm.class4Ok
  | .jo _ => true
  | .jno _ => true
  | .jb _ => true
  | .jnb _ => true
  | .jz _ => true
  | .jnz _ => true
  | .jbe _ => true
  | .ja _ => true
  | .js _ => true
  | .jns _ => true
  | .jp _ => true
  | .jnp _ => true
  | .jl _ => true
  | .jnl _ => true
  | .jle _ => true
  | .jg _ => true
  | .loopnz _ => true
  | .loopz _ => true
  | .loop _ => true
  | .jcxz _ => true

end Sys2Proof
end

