-- ==== Sys2Proof/Decode.lean ====
section
/-! DEFINITION. The decoder (30_encoding, 40_decoder_and_step R100 to R107), total on any bytes, rejecting by name; the
record of an instruction (R103, R104); then the encoder, from the same encoding tables. -/

namespace Sys2Proof

/-! ## Bit fields, sign extension, byte order (00_scope R6) -/

/-- `b[lo+len-1 : lo]`. -/
def field (b : Byte) (lo len : Nat) : BitVec len := b.extractLsb' lo len

/-- `b[n]`, one bit. -/
def bit (b : Byte) (n : Nat) : Bool := b.getLsbD n

/-- `{hi, lo}`, the little-endian combination `hi * 256 + lo` (R42). -/
def mkWord (hi lo : Byte) : Word := hi ++ lo

/-- `v[7:0]`. -/
def loByte (v : Word) : Byte := v.extractLsb' 0 8

/-- `v[15:8]`. -/
def hiByte (v : Word) : Byte := v.extractLsb' 8 8

/-- `zext_16`. -/
def zext16 (b : Byte) : Word := b.zeroExtend 16

/-- `sext_16`. -/
def sext16 (b : Byte) : Word := b.signExtend 16

/-- `signed_8`. -/
def signed8 (b : Byte) : Int := b.toInt

/-- `signed_16`. -/
def signed16 (v : Word) : Int := v.toInt

/-! ## The decoded record of an instruction -/

/-- The addressing-mode tag (R67). -/
def RmOperand.mode : RmOperand → Mode
  | .reg _ => .reg
  | .mem0 _ => .mem0
  | .mem8 _ _ => .mem8
  | .mem16 _ _ => .mem16
  | .direct _ => .mem0

/-- The `rm` field; `0b110` for the direct address (R68). -/
def RmOperand.rmField : RmOperand → Reg3
  | .reg rm | .mem0 rm | .mem8 rm _ | .mem16 rm _ => rm
  | .direct _ => 6#3

/-- `direct` (R103). -/
def RmOperand.isDirect : RmOperand → Bool
  | .direct _ => true
  | .reg _ | .mem0 _ | .mem8 _ _ | .mem16 _ _ => false

/-- `addr` (R70). -/
def RmOperand.addr : RmOperand → Option Word
  | .direct a => some a
  | .reg _ | .mem0 _ | .mem8 _ _ | .mem16 _ _ => none

/-- `disp_size` (R68, R69): the two direct-address bytes count. -/
def RmOperand.dispSize : RmOperand → Nat
  | .reg _ | .mem0 _ => 0
  | .mem8 _ _ => 1
  | .mem16 _ _ | .direct _ => 2

/-- `disp` (R70): the 8-bit displacement sign-extended, the 16-bit one as it stands. -/
def RmOperand.disp : RmOperand → Option Word
  | .mem8 _ d => some (sext16 d)
  | .mem16 _ d => some d
  | .reg _ | .mem0 _ | .direct _ => none

/-- Record of a class 1 instruction (R130, R71). -/
def recMovImmReg (w : Bool) (reg : Reg3) (immSize : Nat) (imm : Word) : Record :=
  { classTag := .immToRegMov, op := .mov, w := some w, d := none, s := none, mode := none, reg := some reg, rm := none,
    direct := none, addr := none, dispSize := none, disp := none, immSize := some immSize, imm := some imm,
    jdisp := none, length := 1 + immSize }

/-- Record of a class 2 instruction (R140, R71): no `reg`, the accumulator is implied. -/
def recArithImmAcc (op : Op) (w : Bool) (immSize : Nat) (imm : Word) : Record :=
  { classTag := .immToAccArith, op := op, w := some w, d := none, s := none, mode := none, reg := none, rm := none,
    direct := none, addr := none, dispSize := none, disp := none, immSize := some immSize, imm := some imm,
    jdisp := none, length := 1 + immSize }

/-- Record of a class 3 instruction (R150 to R152, R72). -/
def recArithImmRm (op : Op) (s w : Bool) (rm : RmOperand) (immSize : Nat) (imm : Word) : Record :=
  { classTag := .immToRmArith, op := op, w := some w, d := none, s := some s, mode := some rm.mode, reg := none,
    rm := some rm.rmField, direct := some rm.isDirect, addr := rm.addr, dispSize := some rm.dispSize, disp := rm.disp,
    immSize := some immSize, imm := some imm, jdisp := none, length := 2 + rm.dispSize + immSize }

/-- Record of a class 4 instruction (R165, R166). -/
def recRmReg (op : Op) (d w : Bool) (rm : RmOperand) (reg : Reg3) : Record :=
  { classTag := .rmReg, op := op, w := some w, d := some d, s := none, mode := some rm.mode, reg := some reg,
    rm := some rm.rmField, direct := some rm.isDirect, addr := rm.addr, dispSize := some rm.dispSize, disp := rm.disp,
    immSize := none, imm := none, jdisp := none, length := 2 + rm.dispSize }

/-- Record of a class 5 instruction (R180, R73). -/
def recJump (tag : ClassTag) (op : Op) (disp : Byte) : Record :=
  { classTag := tag, op := op, w := none, d := none, s := none, mode := none, reg := none, rm := none, direct := none,
    addr := none, dispSize := none, disp := none, immSize := none, imm := none, jdisp := some (signed8 disp), length := 2 }

/-- The decoded record of an instruction (R103). The immediate is widened as R71 and R72 say. -/
def Instr.record : Instr → Record
  | .movReg8Imm8 reg imm => recMovImmReg false reg 1 (zext16 imm)
  | .movReg16Imm16 reg imm => recMovImmReg true reg 2 imm
  | .addAlImm8 imm => recArithImmAcc .add false 1 (zext16 imm)
  | .addAxImm16 imm => recArithImmAcc .add true 2 imm
  | .subAlImm8 imm => recArithImmAcc .sub false 1 (zext16 imm)
  | .subAxImm16 imm => recArithImmAcc .sub true 2 imm
  | .cmpAlImm8 imm => recArithImmAcc .cmp false 1 (zext16 imm)
  | .cmpAxImm16 imm => recArithImmAcc .cmp true 2 imm
  | .addRm8Imm8 rm imm => recArithImmRm .add false false rm 1 (zext16 imm)
  | .addRm16Imm16 rm imm => recArithImmRm .add false true rm 2 imm
  | .addRm8Imm8S rm imm => recArithImmRm .add true false rm 1 (zext16 imm)
  | .addRm16Simm8 rm imm => recArithImmRm .add true true rm 1 (sext16 imm)
  | .subRm8Imm8 rm imm => recArithImmRm .sub false false rm 1 (zext16 imm)
  | .subRm16Imm16 rm imm => recArithImmRm .sub false true rm 2 imm
  | .subRm8Imm8S rm imm => recArithImmRm .sub true false rm 1 (zext16 imm)
  | .subRm16Simm8 rm imm => recArithImmRm .sub true true rm 1 (sext16 imm)
  | .cmpRm8Imm8 rm imm => recArithImmRm .cmp false false rm 1 (zext16 imm)
  | .cmpRm16Imm16 rm imm => recArithImmRm .cmp false true rm 2 imm
  | .cmpRm8Imm8S rm imm => recArithImmRm .cmp true false rm 1 (zext16 imm)
  | .cmpRm16Simm8 rm imm => recArithImmRm .cmp true true rm 1 (sext16 imm)
  | .movRm8Reg8 rm reg => recRmReg .mov false false rm reg
  | .movRm16Reg16 rm reg => recRmReg .mov false true rm reg
  | .movReg8Rm8 rm reg => recRmReg .mov true false rm reg
  | .movReg16Rm16 rm reg => recRmReg .mov true true rm reg
  | .addRm8Reg8 rm reg => recRmReg .add false false rm reg
  | .addRm16Reg16 rm reg => recRmReg .add false true rm reg
  | .addReg8Rm8 rm reg => recRmReg .add true false rm reg
  | .addReg16Rm16 rm reg => recRmReg .add true true rm reg
  | .subRm8Reg8 rm reg => recRmReg .sub false false rm reg
  | .subRm16Reg16 rm reg => recRmReg .sub false true rm reg
  | .subReg8Rm8 rm reg => recRmReg .sub true false rm reg
  | .subReg16Rm16 rm reg => recRmReg .sub true true rm reg
  | .cmpRm8Reg8 rm reg => recRmReg .cmp false false rm reg
  | .cmpRm16Reg16 rm reg => recRmReg .cmp false true rm reg
  | .cmpReg8Rm8 rm reg => recRmReg .cmp true false rm reg
  | .cmpReg16Rm16 rm reg => recRmReg .cmp true true rm reg
  | .jo disp => recJump .condJump .jo disp
  | .jno disp => recJump .condJump .jno disp
  | .jb disp => recJump .condJump .jb disp
  | .jnb disp => recJump .condJump .jnb disp
  | .jz disp => recJump .condJump .jz disp
  | .jnz disp => recJump .condJump .jnz disp
  | .jbe disp => recJump .condJump .jbe disp
  | .ja disp => recJump .condJump .ja disp
  | .js disp => recJump .condJump .js disp
  | .jns disp => recJump .condJump .jns disp
  | .jp disp => recJump .condJump .jp disp
  | .jnp disp => recJump .condJump .jnp disp
  | .jl disp => recJump .condJump .jl disp
  | .jnl disp => recJump .condJump .jnl disp
  | .jle disp => recJump .condJump .jle disp
  | .jg disp => recJump .condJump .jg disp
  | .loopnz disp => recJump .loop .loopnz disp
  | .loopz disp => recJump .loop .loopz disp
  | .loop disp => recJump .loop .loop disp
  | .jcxz disp => recJump .loop .jcxz disp

/-! ## The decoder -/

/-- What decoding the bytes at the cursor answers (R100): an instruction, or a rejection by name. `byte` is the first
byte (R241); `needed` is the number of bytes the decoder knows the instruction requires (R106). -/
inductive Decoded where
  | ok (i : Instr)
  | unrecognizedOpcode (byte : Byte)
  | truncatedInstruction (needed : Nat)
deriving DecidableEq, Repr

/-- The add, sub, compare of classes 2 and 3. -/
inductive ArithOp where
  | add | sub | cmp
deriving DecidableEq, Repr

/-- The operations of class 4. -/
inductive RmRegOp where
  | mov | add | sub | cmp
deriving DecidableEq, Repr

/-- Class 2 predicate on `b0[7:1]` (R101, R62). -/
def accOp? (p : BitVec 7) : Option ArithOp :=
  if p = 0b0000010#7 then some .add
  else if p = 0b0010110#7 then some .sub
  else if p = 0b0011110#7 then some .cmp
  else none

/-- Class 3 sub-operation selector (R81). -/
def subOp? (p : BitVec 3) : Option ArithOp :=
  if p = 0b000#3 then some .add
  else if p = 0b101#3 then some .sub
  else if p = 0b111#3 then some .cmp
  else none

/-- Class 4 predicate on `b0[7:2]` (R101, R64). -/
def rmRegOp? (p : BitVec 6) : Option RmRegOp :=
  if p = 0b100010#6 then some .mov
  else if p = 0b000000#6 then some .add
  else if p = 0b001010#6 then some .sub
  else if p = 0b001110#6 then some .cmp
  else none

/-- Class 5 predicate: full-byte match against the 20 opcodes (R82). -/
def jump? (b0 : Byte) (disp : Byte) : Option Instr :=
  match b0.toNat with
  | 0x70 => some (.jo disp)
  | 0x71 => some (.jno disp)
  | 0x72 => some (.jb disp)
  | 0x73 => some (.jnb disp)
  | 0x74 => some (.jz disp)
  | 0x75 => some (.jnz disp)
  | 0x76 => some (.jbe disp)
  | 0x77 => some (.ja disp)
  | 0x78 => some (.js disp)
  | 0x79 => some (.jns disp)
  | 0x7A => some (.jp disp)
  | 0x7B => some (.jnp disp)
  | 0x7C => some (.jl disp)
  | 0x7D => some (.jnl disp)
  | 0x7E => some (.jle disp)
  | 0x7F => some (.jg disp)
  | 0xE0 => some (.loopnz disp)
  | 0xE1 => some (.loopz disp)
  | 0xE2 => some (.loop disp)
  | 0xE3 => some (.jcxz disp)
  | _ => none

/-- Class 1 (R107 predicate 1, R61, R71); `rest` are the bytes after the first. -/
def decodeMovImmReg (w : Bool) (reg : Reg3) (rest : List Byte) : Decoded :=
  match w, rest with
  | false, lo :: _ => .ok (.movReg8Imm8 reg lo)
  | false, [] => .truncatedInstruction 2
  | true, lo :: hi :: _ => .ok (.movReg16Imm16 reg (mkWord hi lo))
  | true, _ => .truncatedInstruction 3

/-- The byte form of a class 2 instruction. -/
def accInstr8 (op : ArithOp) (imm : Byte) : Instr :=
  match op with
  | .add => .addAlImm8 imm
  | .sub => .subAlImm8 imm
  | .cmp => .cmpAlImm8 imm

/-- The word form of a class 2 instruction. -/
def accInstr16 (op : ArithOp) (imm : Word) : Instr :=
  match op with
  | .add => .addAxImm16 imm
  | .sub => .subAxImm16 imm
  | .cmp => .cmpAxImm16 imm

/-- Class 2 (R107 predicate 2, R62, R71). -/
def decodeArithImmAcc (op : ArithOp) (w : Bool) (rest : List Byte) : Decoded :=
  match w, rest with
  | false, lo :: _ => .ok (accInstr8 op lo)
  | false, [] => .truncatedInstruction 2
  | true, lo :: hi :: _ => .ok (accInstr16 op (mkWord hi lo))
  | true, _ => .truncatedInstruction 3

/-- Displacement bytes of class 3 (R68). -/
def dispSize3 (mod : BitVec 2) (rm : Reg3) : Nat :=
  if mod = 0b00#2 then (if rm = 0b110#3 then 2 else 0)
  else if mod = 0b01#2 then 1
  else if mod = 0b10#2 then 2
  else 0

/-- Displacement bytes of class 4 (R69). -/
def dispSize4 (mod : BitVec 2) : Nat :=
  if mod = 0b01#2 then 1 else if mod = 0b10#2 then 2 else 0

/-- The operand that follows the mod byte of class 4 and the bytes left (R69, R70, R166); `none` when they run out. -/
def rmOperand4 (mod : BitVec 2) (rm : Reg3) (rest : List Byte) : Option (RmOperand × List Byte) :=
  if mod = 0b00#2 then some (.mem0 rm, rest)
  else if mod = 0b01#2 then
    match rest with
    | d :: more => some (.mem8 rm d, more)
    | [] => none
  else if mod = 0b10#2 then
    match rest with
    | lo :: hi :: more => some (.mem16 rm (mkWord hi lo), more)
    | _ => none
  else some (.reg rm, rest)

/-- The same for class 3: with `mod = 0b00` and `rm = 0b110` a direct address follows (R68, R152). -/
def rmOperand3 (mod : BitVec 2) (rm : Reg3) (rest : List Byte) : Option (RmOperand × List Byte) :=
  if mod = 0b00#2 ∧ rm = 0b110#3 then
    match rest with
    | lo :: hi :: more => some (.direct (mkWord hi lo), more)
    | _ => none
  else rmOperand4 mod rm rest

/-- `imm_size` of class 3 from the sign/width selector (R72). -/
def immSize3 (s w : Bool) : Nat := if s = false ∧ w = true then 2 else 1

/-- Class 3 with one immediate byte: first bytes 0x80, 0x82 and 0x83 (R72, R151). -/
def rmInstr8 (op : ArithOp) (s w : Bool) (rm : RmOperand) (imm : Byte) : Instr :=
  match op, w, s with
  | .add, true, _ => .addRm16Simm8 rm imm
  | .sub, true, _ => .subRm16Simm8 rm imm
  | .cmp, true, _ => .cmpRm16Simm8 rm imm
  | .add, false, false => .addRm8Imm8 rm imm
  | .sub, false, false => .subRm8Imm8 rm imm
  | .cmp, false, false => .cmpRm8Imm8 rm imm
  | .add, false, true => .addRm8Imm8S rm imm
  | .sub, false, true => .subRm8Imm8S rm imm
  | .cmp, false, true => .cmpRm8Imm8S rm imm

/-- Class 3 with two immediate bytes: first byte 0x81 (R72, R151). -/
def rmInstr16 (op : ArithOp) (rm : RmOperand) (imm : Word) : Instr :=
  match op with
  | .add => .addRm16Imm16 rm imm
  | .sub => .subRm16Imm16 rm imm
  | .cmp => .cmpRm16Imm16 rm imm

/-- Class 3 after its mod byte, the sub-operation being in the subset (R107 predicate 3, R74: displacement or address
first, immediate last). -/
def decodeArithImmRm (op : ArithOp) (s w : Bool) (mod : BitVec 2) (rm : Reg3) (rest : List Byte) : Decoded :=
  match rmOperand3 mod rm rest with
  | none => .truncatedInstruction (2 + dispSize3 mod rm + immSize3 s w)
  | some (operand, more) =>
    if s = false ∧ w = true then
      match more with
      | lo :: hi :: _ => .ok (rmInstr16 op operand (mkWord hi lo))
      | _ => .truncatedInstruction (2 + dispSize3 mod rm + immSize3 s w)
    else
      match more with
      | lo :: _ => .ok (rmInstr8 op s w operand lo)
      | [] => .truncatedInstruction (2 + dispSize3 mod rm + immSize3 s w)

/-- The class 4 instruction of an operation, direction and width (R64, R166). -/
def rmRegInstr (op : RmRegOp) (d w : Bool) (rm : RmOperand) (reg : Reg3) : Instr :=
  match op, d, w with
  | .mov, false, false => .movRm8Reg8 rm reg
  | .mov, false, true => .movRm16Reg16 rm reg
  | .mov, true, false => .movReg8Rm8 rm reg
  | .mov, true, true => .movReg16Rm16 rm reg
  | .add, false, false => .addRm8Reg8 rm reg
  | .add, false, true => .addRm16Reg16 rm reg
  | .add, true, false => .addReg8Rm8 rm reg
  | .add, true, true => .addReg16Rm16 rm reg
  | .sub, false, false => .subRm8Reg8 rm reg
  | .sub, false, true => .subRm16Reg16 rm reg
  | .sub, true, false => .subReg8Rm8 rm reg
  | .sub, true, true => .subReg16Rm16 rm reg
  | .cmp, false, false => .cmpRm8Reg8 rm reg
  | .cmp, false, true => .cmpRm16Reg16 rm reg
  | .cmp, true, false => .cmpReg8Rm8 rm reg
  | .cmp, true, true => .cmpReg16Rm16 rm reg

/-- Class 4 after its mod byte (R107 predicate 4). -/
def decodeRmReg (op : RmRegOp) (d w : Bool) (mod : BitVec 2) (reg rm : Reg3) (rest : List Byte) : Decoded :=
  match rmOperand4 mod rm rest with
  | none => .truncatedInstruction (2 + dispSize4 mod)
  | some (operand, _) => .ok (rmRegInstr op d w operand reg)

/-- Predicate 3's candidates, first byte 0x80 to 0x83: the mod byte must be there (R106 stage A), then its
sub-operation in the subset (R86: else unrecognised, the first byte being the byte reported). -/
def decodeClass3 (b0 : Byte) (rest : List Byte) : Decoded :=
  match rest with
  | [] => .truncatedInstruction 2
  | b1 :: more =>
    match subOp? (field b1 3 3) with
    | some op => decodeArithImmRm op (bit b0 1) (bit b0 0) (field b1 6 2) (field b1 0 3) more
    | none => .unrecognizedOpcode b0

/-- Predicate 4: the mod byte must be there (R106 stage A). -/
def decodeClass4 (op : RmRegOp) (b0 : Byte) (rest : List Byte) : Decoded :=
  match rest with
  | [] => .truncatedInstruction 2
  | b1 :: more => decodeRmReg op (bit b0 1) (bit b0 0) (field b1 6 2) (field b1 3 3) (field b1 0 3) more

/-- Predicate 5 and the end of the tests: a jump or loop opcode, or unrecognised (R82, R85, R106). -/
def decodeClass5 (b0 : Byte) (rest : List Byte) : Decoded :=
  match rest with
  | [] => if (jump? b0 0#8).isSome then .truncatedInstruction 2 else .unrecognizedOpcode b0
  | b1 :: _ =>
    match jump? b0 b1 with
    | some i => .ok i
    | none => .unrecognizedOpcode b0

/-- The five predicates in their order (R101, R102). -/
def decodeFrom (b0 : Byte) (rest : List Byte) : Decoded :=
  if field b0 4 4 = 0b1011#4 then decodeMovImmReg (bit b0 3) (field b0 0 3) rest
  else
    match accOp? (field b0 1 7) with
    | some op => decodeArithImmAcc op (bit b0 0) rest
    | none =>
      if field b0 2 6 = 0b100000#6 then decodeClass3 b0 rest
      else
        match rmRegOp? (field b0 2 6) with
        | some op => decodeClass4 op b0 rest
        | none => decodeClass5 b0 rest

/-- The decoder on the bytes from the cursor to the end of the stream (R100, R107). No byte at all is R120. -/
def decodeBytes : List Byte → Decoded
  | [] => .truncatedInstruction 1
  | b0 :: rest => decodeFrom b0 rest

/-- The six bytes of a table word: bit 0 the least significant bit of the first byte; zero above `nbits`. -/
def tableBytes (nbits w : Nat) : List Byte :=
  (List.range Config.maxLen).map fun k => BitVec.ofNat 8 ((w % 2 ^ nbits) / 2 ^ (8 * k))

/-- What the decoder reads from an instruction whose table bits are `w`; `none` where it refuses. -/
def decodeTableWord (nbits w : Nat) : Option Instr :=
  match decodeBytes (tableBytes nbits w) with
  | .ok i => some i
  | .unrecognizedOpcode _ => none
  | .truncatedInstruction _ => none

/-! ## The encoder -/

/-- The mod byte: `mod` in 7:6, the middle field in 5:3, `rm` in 2:0 (R66). -/
def modByte (mod : BitVec 2) (mid rm : Reg3) : Byte := mod ++ mid ++ rm

/-- A word's two bytes, low byte first (R42). -/
def wordBytes (v : Word) : List Byte := [loByte v, hiByte v]

/-- The mod byte and the displacement or address bytes of an operand (R67 to R70, R74). -/
def RmOperand.encode (mid : Reg3) : RmOperand → List Byte
  | .reg rm => [modByte 0b11#2 mid rm]
  | .mem0 rm => [modByte 0b00#2 mid rm]
  | .mem8 rm d => [modByte 0b01#2 mid rm, d]
  | .mem16 rm d => modByte 0b10#2 mid rm :: wordBytes d
  | .direct a => modByte 0b00#2 mid 0b110#3 :: wordBytes a

/-- The bytes of a well-formed instruction, first byte first (R60 to R65). -/
def encode : Instr → List Byte
  | .movReg8Imm8 reg imm => [0b10110#5 ++ reg, imm]
  | .movReg16Imm16 reg imm => (0b10111#5 ++ reg) :: wordBytes imm
  | .addAlImm8 imm => [0x04#8, imm]
  | .addAxImm16 imm => 0x05#8 :: wordBytes imm
  | .subAlImm8 imm => [0x2C#8, imm]
  | .subAxImm16 imm => 0x2D#8 :: wordBytes imm
  | .cmpAlImm8 imm => [0x3C#8, imm]
  | .cmpAxImm16 imm => 0x3D#8 :: wordBytes imm
  | .addRm8Imm8 rm imm => 0x80#8 :: (rm.encode 0b000#3 ++ [imm])
  | .addRm16Imm16 rm imm => 0x81#8 :: (rm.encode 0b000#3 ++ wordBytes imm)
  | .addRm8Imm8S rm imm => 0x82#8 :: (rm.encode 0b000#3 ++ [imm])
  | .addRm16Simm8 rm imm => 0x83#8 :: (rm.encode 0b000#3 ++ [imm])
  | .subRm8Imm8 rm imm => 0x80#8 :: (rm.encode 0b101#3 ++ [imm])
  | .subRm16Imm16 rm imm => 0x81#8 :: (rm.encode 0b101#3 ++ wordBytes imm)
  | .subRm8Imm8S rm imm => 0x82#8 :: (rm.encode 0b101#3 ++ [imm])
  | .subRm16Simm8 rm imm => 0x83#8 :: (rm.encode 0b101#3 ++ [imm])
  | .cmpRm8Imm8 rm imm => 0x80#8 :: (rm.encode 0b111#3 ++ [imm])
  | .cmpRm16Imm16 rm imm => 0x81#8 :: (rm.encode 0b111#3 ++ wordBytes imm)
  | .cmpRm8Imm8S rm imm => 0x82#8 :: (rm.encode 0b111#3 ++ [imm])
  | .cmpRm16Simm8 rm imm => 0x83#8 :: (rm.encode 0b111#3 ++ [imm])
  | .movRm8Reg8 rm reg => 0x88#8 :: rm.encode reg
  | .movRm16Reg16 rm reg => 0x89#8 :: rm.encode reg
  | .movReg8Rm8 rm reg => 0x8A#8 :: rm.encode reg
  | .movReg16Rm16 rm reg => 0x8B#8 :: rm.encode reg
  | .addRm8Reg8 rm reg => 0x00#8 :: rm.encode reg
  | .addRm16Reg16 rm reg => 0x01#8 :: rm.encode reg
  | .addReg8Rm8 rm reg => 0x02#8 :: rm.encode reg
  | .addReg16Rm16 rm reg => 0x03#8 :: rm.encode reg
  | .subRm8Reg8 rm reg => 0x28#8 :: rm.encode reg
  | .subRm16Reg16 rm reg => 0x29#8 :: rm.encode reg
  | .subReg8Rm8 rm reg => 0x2A#8 :: rm.encode reg
  | .subReg16Rm16 rm reg => 0x2B#8 :: rm.encode reg
  | .cmpRm8Reg8 rm reg => 0x38#8 :: rm.encode reg
  | .cmpRm16Reg16 rm reg => 0x39#8 :: rm.encode reg
  | .cmpReg8Rm8 rm reg => 0x3A#8 :: rm.encode reg
  | .cmpReg16Rm16 rm reg => 0x3B#8 :: rm.encode reg
  | .jo disp => [0x70#8, disp]
  | .jno disp => [0x71#8, disp]
  | .jb disp => [0x72#8, disp]
  | .jnb disp => [0x73#8, disp]
  | .jz disp => [0x74#8, disp]
  | .jnz disp => [0x75#8, disp]
  | .jbe disp => [0x76#8, disp]
  | .ja disp => [0x77#8, disp]
  | .js disp => [0x78#8, disp]
  | .jns disp => [0x79#8, disp]
  | .jp disp => [0x7A#8, disp]
  | .jnp disp => [0x7B#8, disp]
  | .jl disp => [0x7C#8, disp]
  | .jnl disp => [0x7D#8, disp]
  | .jle disp => [0x7E#8, disp]
  | .jg disp => [0x7F#8, disp]
  | .loopnz disp => [0xE0#8, disp]
  | .loopz disp => [0xE1#8, disp]
  | .loop disp => [0xE2#8, disp]
  | .jcxz disp => [0xE3#8, disp]

end Sys2Proof
end

