-- ==== Sys2Proof/Machine/State.lean ====
section
/-! DEFINITION. The state of the block (10_state), as plain data, and the state right after reset (R31, R270). The byte
stream, its length and the configuration are parameters of the pass in the spec (00_scope R7); they are carried here,
constant, because a step takes the state alone (log entry 1). -/

namespace Sys2Proof.Machine

/-- The register file: eight 16-bit registers `ax cx dx bx sp bp si di` (R10, R11). -/
abbrev Regs := Vector Word 8

/-- R18. `done` and `failed` are final. -/
inductive Phase where
  | running | done | failed
deriving DecidableEq, Repr

/-- The three error kinds (60_exceptions R240 to R243). -/
inductive ErrorRecord where
  /-- The bytes at the cursor match none of the five predicates (R241). Latched by a step: a next state. -/
  | unrecognizedOpcode (offset : Nat) (byte : Byte)
  /-- The stream ends inside the instruction at the cursor (R242). Latched by a step: a next state. -/
  | truncatedInstruction (offset needed available : Nat)
  /-- A register accessor got an index outside 0..7 (R243). Returned to the host by a read port; no step can raise it. -/
  | registerIndexOutOfRange
deriving DecidableEq, Repr

/-- `CFG.P_ACC_APPLY` (R21, 42_arith_imm_acc R147): what class 2 `apply` does. This hardware takes `arith`. -/
inductive AccApply where
  | arith | loadImm
deriving DecidableEq, Repr

/-- The configuration (R21): written by the host before the pass, constant during it. -/
structure Cfg where
  bufCap   : Option Nat
  debug    : Bool
  accApply : AccApply
deriving DecidableEq, Repr

/-- The byte stream `BUF` of length `len` = `N` (20_memory R40). `cells` lists, by rising address, the bytes that differ
from `Memory.unlisted`; an address at or past `len` has no value (R41). -/
structure Memory where
  cells : List Host.Cell
  len   : Nat
deriving DecidableEq, Repr

/-- What an address below `len` that `cells` does not list reads as (log entry 2). -/
def Memory.unlisted : Byte := 0#8

/-- The state. `debugSource` is the model's own: what the free debug lines of the next instruction are drawn from (log
entry 4). It is no counter: its next value is a free value too (60_exceptions R261). -/
structure State where
  regs       : Regs
  cur        : Nat
  phase      : Phase
  err        : Option ErrorRecord
  out        : List Text
  cfg        : Cfg
  buf        : Memory
  debugSource : Nat
deriving DecidableEq, Repr

/-- Why a step does not exist. -/
inductive Fault where
  /-- Raised by `step` in `Done`: no step exists there (R18, 40_decoder_and_step R110). Safe: nothing goes on. -/
  | noStepInDone
  /-- Raised by `step` in `Failed`: no step exists there (R18, R110, R248). Safe: nothing goes on. -/
  | noStepInFailed
deriving DecidableEq, Repr

/-- Why the model gives no meaning. -/
inductive Refusal where
  /-- An instruction without a meaning yet; no arm of `exec` uses it. Safe. -/
  | notModelled (mnemonic : String)
  /-- Raised by `step` when `N` exceeds `CFG.BUF_CAP`: the host broke the port's contract and the spec gives the pass no
  meaning (R25, 93 U4; log entry 5). Safe. -/
  | bufferExceedsCap
deriving DecidableEq, Repr

/-- The two header lines (48_render_syntax R210). -/
def header : List Text := ["bits 16", ""]

/-- The machine right after reset (R31, R270), with the default configuration (R21) and no stream presented yet: `N = 0`
(log entries 2 and 3). -/
def State.reset : State where
  regs       := Vector.replicate 8 0#16
  cur        := 0
  phase      := .running
  err        := none
  out        := header
  cfg        := { bufCap := none, debug := false, accApply := .arith }
  buf        := { cells := [], len := 0 }
  debugSource := 0

end Sys2Proof.Machine
end

