-- ==== Sys2Proof/Machine/Flags.lean ====
section
/-! DEFINITION. The block has no flags, no condition codes and no predicate registers (10_state R22), so no flag
computation stands here; what stands here is the one arithmetic the block does, the accumulator's (42_arith_imm_acc R147):
carry and borrow are dropped, nothing records them. -/

namespace Sys2Proof.Machine

/-- What class 2 `apply` writes to the accumulator; `none` where it writes nothing (R147, R141 to R146). Under `arith`
add and sub wrap modulo `2^n` and compare writes nothing; under `loadImm` every operation loads the immediate (D11). -/
def accResult {n : Nat} (mode : AccApply) (op : ArithOp) (acc imm : BitVec n) : Option (BitVec n) :=
  match mode, op with
  | .arith, .add => some (acc + imm)
  | .arith, .sub => some (acc - imm)
  | .arith, .cmp => none
  | .loadImm, _ => some imm

end Sys2Proof.Machine
end

