-- ==== Sys2Proof/Machine/Operands.lean ====
section
/-! DEFINITION. The register file's word and byte views (10_state R10 to R14) and the text of every operand form
(48_render_syntax R212 to R216). A memory operand is text only: nothing is read or added (20_memory R53). -/

namespace Sys2Proof.Machine

/-- `REG[i]` (R10). -/
def readWord (r : Regs) (i : Reg3) : Word := r[i.toNat]'i.isLt

/-- `REG[i] <- v` (R10). -/
def writeWord (r : Regs) (i : Reg3) (v : Word) : Regs := r.set i.toNat v i.isLt

/-- `REGB[k]` (R13). -/
def readByte (r : Regs) (k : Reg3) : Byte :=
  if k.toNat < Config.nhalf then loByte (readWord r k) else hiByte (readWord r (k - 4#3))

/-- `REGB[k] <- v` (R14): the other half of the register is kept. -/
def writeByte (r : Regs) (k : Reg3) (v : Byte) : Regs :=
  if k.toNat < Config.nhalf then writeWord r k (mkWord (hiByte (readWord r k)) v)
  else writeWord r (k - 4#3) (mkWord v (loByte (readWord r (k - 4#3))))

/-- The 16-entry name table (R212). -/
def nameTable : List Text :=
  ["ax", "cx", "dx", "bx", "sp", "bp", "si", "di", "al", "cl", "dl", "bl", "ah", "ch", "dh", "bh"]

/-- `RegName(i, w)` (R212). -/
def regName (i : Reg3) (w : Bool) : Text := nameTable.getD (if w then i.toNat else i.toNat + 8) ""

/-- The eight base expressions (R79, R213). -/
def baseTable : List Text := ["bx + si", "bx + di", "bp + si", "bp + di", "si", "di", "bp", "bx"]

/-- `BASE[rm]` (R213). -/
def baseText (rm : Reg3) : Text := baseTable.getD rm.toNat ""

/-- `Dec(n)`: decimal, no leading zeros, a leading `-` when negative (R213). -/
def dec (n : Int) : Text := toString n

/-- `MemText` (R213): a zero displacement is omitted, a negative one keeps the ` + `. -/
def memText (rm : Reg3) (disp : Option Word) : Text :=
  match disp with
  | none => "[" ++ baseText rm ++ "]"
  | some d => if d = 0#16 then "[" ++ baseText rm ++ "]" else "[" ++ baseText rm ++ " + " ++ dec (signed16 d) ++ "]"

/-- Direct-address text (R214): unsigned decimal. -/
def directText (addr : Word) : Text := "[" ++ dec addr.toNat ++ "]"

/-- Immediate text (R215): unsigned decimal at the operand's width. -/
def immText (w : Bool) (imm : Word) : Text := if w then dec imm.toNat else dec (loByte imm).toNat

/-- Size qualifier (R216). -/
def sizeText (w : Bool) : Text := if w then "word" else "byte"

/-- The mnemonic printed (R223, R82): one spelling per opcode. -/
def opText : Op → Text
  | .mov => "mov"
  | .add => "add"
  | .sub => "sub"
  | .cmp => "cmp"
  | .jo => "jo"
  | .jno => "jno"
  | .jb => "jb"
  | .jnb => "jnb"
  | .jz => "jz"
  | .jnz => "jnz"
  | .jbe => "jbe"
  | .ja => "ja"
  | .js => "js"
  | .jns => "jns"
  | .jp => "jp"
  | .jnp => "jnp"
  | .jl => "jl"
  | .jnl => "jnl"
  | .jle => "jle"
  | .jg => "jg"
  | .loopnz => "loopnz"
  | .loopz => "loopz"
  | .loop => "loop"
  | .jcxz => "jcxz"

end Sys2Proof.Machine
end

