-- ==== Sys2Proof/Machine/Render.lean ====
section
/-! DEFINITION. `Render(D)`: the text line of a decoded record (48_render_syntax R211, R217 to R222). A pure function of
the record. A field a record of that class must have and lacks would print as the empty text; no record that Decode
produces lacks one (log entry 8). -/

namespace Sys2Proof.Machine

/-- Register operand text of a record's index and width fields (R212). -/
def regField (i : Option Reg3) (w : Option Bool) : Text :=
  match i, w with
  | some i, some w => regName i w
  | _, _ => ""

/-- Immediate text of a record (R215). -/
def immField (D : Record) : Text :=
  match D.w, D.imm with
  | some w, some v => immText w v
  | _, _ => ""

/-- Size qualifier of a record (R216). -/
def sizeField (D : Record) : Text :=
  match D.w with
  | some w => sizeText w
  | none => ""

/-- Memory operand text of a record: the direct address (R214) or the base expression with its displacement (R213). -/
def memField (D : Record) : Text :=
  match D.direct, D.addr, D.rm with
  | some true, some a, _ => directText a
  | _, _, some rm => memText rm D.disp
  | _, _, none => ""

/-- The r/m operand's text in class 4: a register when `mode = REG`, else memory (R221). -/
def rmField (D : Record) : Text :=
  match D.mode with
  | some .reg => regField D.rm D.w
  | _ => memField D

/-- Class 3 (R220): the size qualifier stands before a memory operand only (R216). -/
def renderArithImmRm (D : Record) : Text :=
  match D.mode with
  | some .reg => opText D.op ++ " " ++ regField D.rm D.w ++ ", " ++ immField D
  | _ => opText D.op ++ " " ++ sizeField D ++ " " ++ memField D ++ ", " ++ immField D

/-- Class 4 (R221): the direction flag orders the operands, the destination first (R217). -/
def renderRmReg (D : Record) : Text :=
  match D.d with
  | some true => opText D.op ++ " " ++ regField D.reg D.w ++ ", " ++ rmField D
  | _ => opText D.op ++ " " ++ rmField D ++ ", " ++ regField D.reg D.w

/-- Class 5 (R222): the raw signed displacement as a comment. -/
def renderJump (D : Record) : Text :=
  match D.jdisp with
  | some j => opText D.op ++ " ; " ++ dec j
  | none => ""

/-- `Render(D)`. -/
def render (D : Record) : Text :=
  match D.classTag with
  | .immToRegMov => opText D.op ++ " " ++ regField D.reg D.w ++ ", " ++ immField D
  | .immToAccArith => opText D.op ++ " " ++ regField (some 0#3) D.w ++ ", " ++ immField D
  | .immToRmArith => renderArithImmRm D
  | .rmReg => renderRmReg D
  | .condJump => renderJump D
  | .loop => renderJump D

end Sys2Proof.Machine
end

