-- ==== Sys2Proof/Machine/Ops.lean ====
section
/-! DEFINITION. The named operations over the byte stream and the state: reading and presenting the stream (20_memory),
retiring an instruction, applying class 1 and class 2 to the registers (40_decoder_and_step R110, R114), taking an error
(60_exceptions R246), and the way out of it, reset (70_reset_and_hazards R270, R273). -/

namespace Sys2Proof.Machine

/-! ## The byte stream -/

/-- The byte of an address in a rising list of cells; `Memory.unlisted` where it is not listed. -/
def cellsGet : List Host.Cell → Nat → Byte
  | [], _ => Memory.unlisted
  | (a', b) :: rest, a => if a' = a then b else cellsGet rest a

/-- Puts a byte at an address, keeping the canonical form: the value an unlisted address reads as removes the entry. -/
def cellsSet : List Host.Cell → Nat → Byte → List Host.Cell
  | [], a, b => if b = Memory.unlisted then [] else [(a, b)]
  | (a', b') :: rest, a, b =>
    if a < a' then (if b = Memory.unlisted then (a', b') :: rest else (a, b) :: (a', b') :: rest)
    else if a' = a then (if b = Memory.unlisted then rest else (a, b) :: rest)
    else (a', b') :: cellsSet rest a b

/-- Addresses strictly rising from `lo` on and below `hi`, no entry an unlisted address would read as. -/
def cellsWf (lo hi : Nat) : List Host.Cell → Bool
  | [] => true
  | (a, b) :: rest => decide (lo ≤ a) && decide (a < hi) && decide (b ≠ Memory.unlisted) && cellsWf (a + 1) hi rest

/-- The canonical form of a stream: equal streams are equal data. -/
def Memory.wf (m : Memory) : Bool := cellsWf 0 m.len m.cells

/-- `BUF[a]`: a byte below `N`, no value at or past it (R40, R41). -/
def Memory.read (m : Memory) (a : Nat) : Option Byte := if a < m.len then some (cellsGet m.cells a) else none

/-- The stream with one byte replaced at an index below its length; unchanged at or past it. No step uses it: it is part
of the host's presentation of a stream (R25). -/
def Memory.write (m : Memory) (a : Nat) (b : Byte) : Memory :=
  if a < m.len then { m with cells := cellsSet m.cells a b } else m

/-- The stream lengthened to at least `n` bytes. -/
def Memory.grow (m : Memory) (n : Nat) : Memory := { m with len := max m.len n }

/-- Bytes laid at consecutive indices from `a` on. -/
def Memory.writeBytes (m : Memory) (a : Nat) : List Byte → Memory
  | [] => m
  | b :: rest => (m.write a b).writeBytes (a + 1) rest

/-- The stream of exactly these bytes (R25). -/
def Memory.ofBytes (bytes : List Byte) : Memory := { cells := [], len := bytes.length : Memory }.writeBytes 0 bytes

/-- At most `n` bytes from index `a` on, stopping at the end of the stream: the decoder reads none past it (R41, R44). -/
def Memory.window (m : Memory) (a : Nat) : Nat → List Byte
  | 0 => []
  | n + 1 =>
    match m.read a with
    | some b => b :: m.window (a + 1) n
    | none => []

/-- `BUF[0]` to `BUF[N-1]`, in order (R40). -/
def Memory.bytes (m : Memory) : List Byte := m.window 0 m.len

/-- `Decode(BUF, N, c)` as an instruction or an error record (R100, R106, R120). -/
inductive DecodeResult where
  | ok (i : Instr)
  | err (e : ErrorRecord)
deriving DecidableEq, Repr

/-- `Decode(BUF, N, c)`: it reads the stream alone (R24, R100). No instruction is longer than 6 bytes (R75). -/
def decodeAt (m : Memory) (c : Nat) : DecodeResult :=
  match decodeBytes (m.window c Config.maxLen) with
  | .ok i => .ok i
  | .unrecognizedOpcode b => .err (.unrecognizedOpcode c b)
  | .truncatedInstruction needed => .err (.truncatedInstruction c needed (m.len - c))

/-! ## Retiring an instruction -/

/-- A debug line: it begins with `;` (R117, R224). -/
def debugLine (t : Text) : Text := ";" ++ t

/-- The debug lines before the instruction's line (R117): none unless `CFG.DEBUG = 1`. DESIGN CHOICE (log entry 4): a free
value that may differ by `debugSource`, the cursor and the stream, and by nothing else. -/
def State.debugBefore (s : State) : List Text :=
  if s.cfg.debug then (Config.debugLinesBefore s.debugSource s.cur s.buf.bytes).map debugLine else []

/-- The debug lines after the instruction's line (R117): none unless `CFG.DEBUG = 1`. DESIGN CHOICE (log entry 4): as
`State.debugBefore`. -/
def State.debugAfter (s : State) : List Text :=
  if s.cfg.debug then (Config.debugLinesAfter s.debugSource s.cur s.buf.bytes).map debugLine else []

/-- What every successful step does (R110, R115, R211): the cursor advances by the length and the record's line is
appended, with the debug lines around it when `CFG.DEBUG = 1`. -/
def retire (D : Record) (s : State) : State :=
  { s with
    cur := s.cur + D.length
    out := s.out ++ (s.debugBefore ++ render D :: s.debugAfter)
    debugSource := if s.cfg.debug then Config.nextDebugSource s.debugSource else s.debugSource }

/-- The state with another register file: the only effect `Apply` has (R114). -/
def State.setRegs (s : State) (r : Regs) : State := { s with regs := r }

/-- Class 1 `Apply`, byte form (R131). -/
def applyMov8 (reg : Reg3) (imm : Byte) (s : State) : State := s.setRegs (writeByte s.regs reg imm)

/-- Class 1 `Apply`, word form (R132). -/
def applyMov16 (reg : Reg3) (imm : Word) (s : State) : State := s.setRegs (writeWord s.regs reg imm)

/-- Class 2 `Apply` on `al` (R141, R143, R145, R147). -/
def applyAcc8 (op : ArithOp) (imm : Byte) (s : State) : State :=
  match accResult s.cfg.accApply op (readByte s.regs 0#3) imm with
  | some v => s.setRegs (writeByte s.regs 0#3 v)
  | none => s

/-- Class 2 `Apply` on `ax` (R142, R144, R146, R147). -/
def applyAcc16 (op : ArithOp) (imm : Word) (s : State) : State :=
  match accResult s.cfg.accApply op (readWord s.regs 0#3) imm with
  | some v => s.setRegs (writeWord s.regs 0#3 v)
  | none => s

/-! ## The ends of a pass -/

/-- Taking an error (R246): the record is latched and the phase becomes `Failed`; nothing else changes. There is no
handler and no return (R248). -/
def State.raiseError (s : State) (e : ErrorRecord) : State := { s with err := some e, phase := .failed }

/-- The end of the stream (R110): the phase becomes `Done`. -/
def State.finish (s : State) : State := { s with phase := .done }

/-- Reset, from any phase (R270, R273): the only way out of `Done` and `Failed` (R248). The configuration and the stream
are the host's and stay. -/
def State.hostReset (s : State) : State :=
  { s with regs := Vector.replicate 8 0#16, cur := 0, err := none, phase := .running, out := header }

/-- `N <= CFG.BUF_CAP` where a cap is set (R25). -/
def State.withinCap (s : State) : Bool :=
  match s.cfg.bufCap with
  | some cap => decide (s.buf.len ≤ cap)
  | none => true

end Sys2Proof.Machine
end

