-- ==== Sys2Proof/Machine/ArithImmAcc.lean ====
section
/-! DEFINITION. The meanings of class 2, immediate-to-accumulator arithmetic (42_arith_imm_acc R140 to R147): the line is printed and the accumulator updated as CFG.P_ACC_APPLY says; compare writes nothing under `arith`. -/

namespace Sys2Proof.Machine

/-- R141: `add al, imm8`, first byte 0x04. -/
def execAddAlImm8 (imm : Byte) (s : State) : Host.Outcome State Fault Refusal :=
  .next (applyAcc8 .add imm (retire (Instr.record (.addAlImm8 imm)) s))

/-- R142: `add ax, imm16`, first byte 0x05. -/
def execAddAxImm16 (imm : Word) (s : State) : Host.Outcome State Fault Refusal :=
  .next (applyAcc16 .add imm (retire (Instr.record (.addAxImm16 imm)) s))

/-- R143: `sub al, imm8`, first byte 0x2C. -/
def execSubAlImm8 (imm : Byte) (s : State) : Host.Outcome State Fault Refusal :=
  .next (applyAcc8 .sub imm (retire (Instr.record (.subAlImm8 imm)) s))

/-- R144: `sub ax, imm16`, first byte 0x2D. -/
def execSubAxImm16 (imm : Word) (s : State) : Host.Outcome State Fault Refusal :=
  .next (applyAcc16 .sub imm (retire (Instr.record (.subAxImm16 imm)) s))

/-- R145: `cmp al, imm8`, first byte 0x3C. -/
def execCmpAlImm8 (imm : Byte) (s : State) : Host.Outcome State Fault Refusal :=
  .next (applyAcc8 .cmp imm (retire (Instr.record (.cmpAlImm8 imm)) s))

/-- R146: `cmp ax, imm16`, first byte 0x3D. -/
def execCmpAxImm16 (imm : Word) (s : State) : Host.Outcome State Fault Refusal :=
  .next (applyAcc16 .cmp imm (retire (Instr.record (.cmpAxImm16 imm)) s))

end Sys2Proof.Machine
end

