-- ==== Sys2Proof/Machine/ArithImmRm.lean ====
section
/-! DEFINITION. The meanings of class 3, immediate-to-register/memory arithmetic (43_arith_imm_rm R150 to R157): the line is printed; no register and no memory changes in any form (R156). -/

namespace Sys2Proof.Machine

/-- R153: `add r/m8, imm8`, first byte 0x80 (s = 0, w = 0). -/
def execAddRm8Imm8 (rm : RmOperand) (imm : Byte) (s : State) : Host.Outcome State Fault Refusal :=
  .next (retire (Instr.record (.addRm8Imm8 rm imm)) s)

/-- R153: `add r/m16, imm16`, first byte 0x81 (s = 0, w = 1). -/
def execAddRm16Imm16 (rm : RmOperand) (imm : Word) (s : State) : Host.Outcome State Fault Refusal :=
  .next (retire (Instr.record (.addRm16Imm16 rm imm)) s)

/-- R153: `add r/m8, imm8`, first byte 0x82 (s = 1, w = 0): the table's second row of this mnemonic. -/
def execAddRm8Imm8S (rm : RmOperand) (imm : Byte) (s : State) : Host.Outcome State Fault Refusal :=
  .next (retire (Instr.record (.addRm8Imm8S rm imm)) s)

/-- R153: `add r/m16, simm8`, first byte 0x83 (s = 1, w = 1). -/
def execAddRm16Simm8 (rm : RmOperand) (imm : Byte) (s : State) : Host.Outcome State Fault Refusal :=
  .next (retire (Instr.record (.addRm16Simm8 rm imm)) s)

/-- R154: `sub r/m8, imm8`, first byte 0x80 (s = 0, w = 0). -/
def execSubRm8Imm8 (rm : RmOperand) (imm : Byte) (s : State) : Host.Outcome State Fault Refusal :=
  .next (retire (Instr.record (.subRm8Imm8 rm imm)) s)

/-- R154: `sub r/m16, imm16`, first byte 0x81 (s = 0, w = 1). -/
def execSubRm16Imm16 (rm : RmOperand) (imm : Word) (s : State) : Host.Outcome State Fault Refusal :=
  .next (retire (Instr.record (.subRm16Imm16 rm imm)) s)

/-- R154: `sub r/m8, imm8`, first byte 0x82 (s = 1, w = 0): the table's second row of this mnemonic. -/
def execSubRm8Imm8S (rm : RmOperand) (imm : Byte) (s : State) : Host.Outcome State Fault Refusal :=
  .next (retire (Instr.record (.subRm8Imm8S rm imm)) s)

/-- R154: `sub r/m16, simm8`, first byte 0x83 (s = 1, w = 1). -/
def execSubRm16Simm8 (rm : RmOperand) (imm : Byte) (s : State) : Host.Outcome State Fault Refusal :=
  .next (retire (Instr.record (.subRm16Simm8 rm imm)) s)

/-- R155: `cmp r/m8, imm8`, first byte 0x80 (s = 0, w = 0). -/
def execCmpRm8Imm8 (rm : RmOperand) (imm : Byte) (s : State) : Host.Outcome State Fault Refusal :=
  .next (retire (Instr.record (.cmpRm8Imm8 rm imm)) s)

/-- R155: `cmp r/m16, imm16`, first byte 0x81 (s = 0, w = 1). -/
def execCmpRm16Imm16 (rm : RmOperand) (imm : Word) (s : State) : Host.Outcome State Fault Refusal :=
  .next (retire (Instr.record (.cmpRm16Imm16 rm imm)) s)

/-- R155: `cmp r/m8, imm8`, first byte 0x82 (s = 1, w = 0): the table's second row of this mnemonic. -/
def execCmpRm8Imm8S (rm : RmOperand) (imm : Byte) (s : State) : Host.Outcome State Fault Refusal :=
  .next (retire (Instr.record (.cmpRm8Imm8S rm imm)) s)

/-- R155: `cmp r/m16, simm8`, first byte 0x83 (s = 1, w = 1). -/
def execCmpRm16Simm8 (rm : RmOperand) (imm : Byte) (s : State) : Host.Outcome State Fault Refusal :=
  .next (retire (Instr.record (.cmpRm16Simm8 rm imm)) s)

end Sys2Proof.Machine
end

