-- ==== Sys2Proof/Machine/JccLoop.lean ====
section
/-! DEFINITION. The meanings of class 5, conditional jumps and the loop family (45_jcc_loop R180 to R201): the line is printed; no transfer, no register effect, no condition evaluated (R201). -/

namespace Sys2Proof.Machine

/-- R181: `jo`, first byte 0x70. -/
def execJo (disp : Byte) (s : State) : Host.Outcome State Fault Refusal :=
  .next (retire (Instr.record (.jo disp)) s)

/-- R182: `jno`, first byte 0x71. -/
def execJno (disp : Byte) (s : State) : Host.Outcome State Fault Refusal :=
  .next (retire (Instr.record (.jno disp)) s)

/-- R183: `jb`, first byte 0x72. -/
def execJb (disp : Byte) (s : State) : Host.Outcome State Fault Refusal :=
  .next (retire (Instr.record (.jb disp)) s)

/-- R184: `jnb`, first byte 0x73. -/
def execJnb (disp : Byte) (s : State) : Host.Outcome State Fault Refusal :=
  .next (retire (Instr.record (.jnb disp)) s)

/-- R185: `jz`, first byte 0x74. -/
def execJz (disp : Byte) (s : State) : Host.Outcome State Fault Refusal :=
  .next (retire (Instr.record (.jz disp)) s)

/-- R186: `jnz`, first byte 0x75. -/
def execJnz (disp : Byte) (s : State) : Host.Outcome State Fault Refusal :=
  .next (retire (Instr.record (.jnz disp)) s)

/-- R187: `jbe`, first byte 0x76. -/
def execJbe (disp : Byte) (s : State) : Host.Outcome State Fault Refusal :=
  .next (retire (Instr.record (.jbe disp)) s)

/-- R188: `ja`, first byte 0x77. -/
def execJa (disp : Byte) (s : State) : Host.Outcome State Fault Refusal :=
  .next (retire (Instr.record (.ja disp)) s)

/-- R189: `js`, first byte 0x78. -/
def execJs (disp : Byte) (s : State) : Host.Outcome State Fault Refusal :=
  .next (retire (Instr.record (.js disp)) s)

/-- R190: `jns`, first byte 0x79. -/
def execJns (disp : Byte) (s : State) : Host.Outcome State Fault Refusal :=
  .next (retire (Instr.record (.jns disp)) s)

/-- R191: `jp`, first byte 0x7A. -/
def execJp (disp : Byte) (s : State) : Host.Outcome State Fault Refusal :=
  .next (retire (Instr.record (.jp disp)) s)

/-- R192: `jnp`, first byte 0x7B. -/
def execJnp (disp : Byte) (s : State) : Host.Outcome State Fault Refusal :=
  .next (retire (Instr.record (.jnp disp)) s)

/-- R193: `jl`, first byte 0x7C. -/
def execJl (disp : Byte) (s : State) : Host.Outcome State Fault Refusal :=
  .next (retire (Instr.record (.jl disp)) s)

/-- R194: `jnl`, first byte 0x7D. -/
def execJnl (disp : Byte) (s : State) : Host.Outcome State Fault Refusal :=
  .next (retire (Instr.record (.jnl disp)) s)

/-- R195: `jle`, first byte 0x7E. -/
def execJle (disp : Byte) (s : State) : Host.Outcome State Fault Refusal :=
  .next (retire (Instr.record (.jle disp)) s)

/-- R196: `jg`, first byte 0x7F. -/
def execJg (disp : Byte) (s : State) : Host.Outcome State Fault Refusal :=
  .next (retire (Instr.record (.jg disp)) s)

/-- R197: `loopnz`, first byte 0xE0. -/
def execLoopnz (disp : Byte) (s : State) : Host.Outcome State Fault Refusal :=
  .next (retire (Instr.record (.loopnz disp)) s)

/-- R198: `loopz`, first byte 0xE1. -/
def execLoopz (disp : Byte) (s : State) : Host.Outcome State Fault Refusal :=
  .next (retire (Instr.record (.loopz disp)) s)

/-- R199: `loop`, first byte 0xE2. -/
def execLoop (disp : Byte) (s : State) : Host.Outcome State Fault Refusal :=
  .next (retire (Instr.record (.loop disp)) s)

/-- R200: `jcxz`, first byte 0xE3. -/
def execJcxz (disp : Byte) (s : State) : Host.Outcome State Fault Refusal :=
  .next (retire (Instr.record (.jcxz disp)) s)

end Sys2Proof.Machine
end

