-- ==== Sys2Proof/Machine/MovImmReg.lean ====
section
/-! DEFINITION. The meanings of class 1, immediate-to-register move (41_mov_imm_reg R130 to R132): the line is printed and the named register or byte half takes the immediate. -/

namespace Sys2Proof.Machine

/-- R131: `mov reg8, imm8`, first byte 0xB0 + reg. -/
def execMovReg8Imm8 (reg : Reg3) (imm : Byte) (s : State) : Host.Outcome State Fault Refusal :=
  .next (applyMov8 reg imm (retire (Instr.record (.movReg8Imm8 reg imm)) s))

/-- R132: `mov reg16, imm16`, first byte 0xB8 + reg. -/
def execMovReg16Imm16 (reg : Reg3) (imm : Word) (s : State) : Host.Outcome State Fault Refusal :=
  .next (applyMov16 reg imm (retire (Instr.record (.movReg16Imm16 reg imm)) s))

end Sys2Proof.Machine
end

