-- ==== Sys2Proof/Machine/RmReg.lean ====
section
/-! DEFINITION. The meanings of class 4, register/memory to or from register (44_rm_reg R165 to R173): the line is printed; no register and no memory changes in any form (R172). -/

namespace Sys2Proof.Machine

/-- R167: `mov r/m8, reg8`, first byte 0x88 (d = 0, w = 0). -/
def execMovRm8Reg8 (rm : RmOperand) (reg : Reg3) (s : State) : Host.Outcome State Fault Refusal :=
  .next (retire (Instr.record (.movRm8Reg8 rm reg)) s)

/-- R167: `mov r/m16, reg16`, first byte 0x89 (d = 0, w = 1). -/
def execMovRm16Reg16 (rm : RmOperand) (reg : Reg3) (s : State) : Host.Outcome State Fault Refusal :=
  .next (retire (Instr.record (.movRm16Reg16 rm reg)) s)

/-- R167: `mov reg8, r/m8`, first byte 0x8A (d = 1, w = 0). -/
def execMovReg8Rm8 (rm : RmOperand) (reg : Reg3) (s : State) : Host.Outcome State Fault Refusal :=
  .next (retire (Instr.record (.movReg8Rm8 rm reg)) s)

/-- R167: `mov reg16, r/m16`, first byte 0x8B (d = 1, w = 1). -/
def execMovReg16Rm16 (rm : RmOperand) (reg : Reg3) (s : State) : Host.Outcome State Fault Refusal :=
  .next (retire (Instr.record (.movReg16Rm16 rm reg)) s)

/-- R168: `add r/m8, reg8`, first byte 0x00 (d = 0, w = 0). -/
def execAddRm8Reg8 (rm : RmOperand) (reg : Reg3) (s : State) : Host.Outcome State Fault Refusal :=
  .next (retire (Instr.record (.addRm8Reg8 rm reg)) s)

/-- R168: `add r/m16, reg16`, first byte 0x01 (d = 0, w = 1). -/
def execAddRm16Reg16 (rm : RmOperand) (reg : Reg3) (s : State) : Host.Outcome State Fault Refusal :=
  .next (retire (Instr.record (.addRm16Reg16 rm reg)) s)

/-- R168: `add reg8, r/m8`, first byte 0x02 (d = 1, w = 0). -/
def execAddReg8Rm8 (rm : RmOperand) (reg : Reg3) (s : State) : Host.Outcome State Fault Refusal :=
  .next (retire (Instr.record (.addReg8Rm8 rm reg)) s)

/-- R168: `add reg16, r/m16`, first byte 0x03 (d = 1, w = 1). -/
def execAddReg16Rm16 (rm : RmOperand) (reg : Reg3) (s : State) : Host.Outcome State Fault Refusal :=
  .next (retire (Instr.record (.addReg16Rm16 rm reg)) s)

/-- R169: `sub r/m8, reg8`, first byte 0x28 (d = 0, w = 0). -/
def execSubRm8Reg8 (rm : RmOperand) (reg : Reg3) (s : State) : Host.Outcome State Fault Refusal :=
  .next (retire (Instr.record (.subRm8Reg8 rm reg)) s)

/-- R169: `sub r/m16, reg16`, first byte 0x29 (d = 0, w = 1). -/
def execSubRm16Reg16 (rm : RmOperand) (reg : Reg3) (s : State) : Host.Outcome State Fault Refusal :=
  .next (retire (Instr.record (.subRm16Reg16 rm reg)) s)

/-- R169: `sub reg8, r/m8`, first byte 0x2A (d = 1, w = 0). -/
def execSubReg8Rm8 (rm : RmOperand) (reg : Reg3) (s : State) : Host.Outcome State Fault Refusal :=
  .next (retire (Instr.record (.subReg8Rm8 rm reg)) s)

/-- R169: `sub reg16, r/m16`, first byte 0x2B (d = 1, w = 1). -/
def execSubReg16Rm16 (rm : RmOperand) (reg : Reg3) (s : State) : Host.Outcome State Fault Refusal :=
  .next (retire (Instr.record (.subReg16Rm16 rm reg)) s)

/-- R170: `cmp r/m8, reg8`, first byte 0x38 (d = 0, w = 0). -/
def execCmpRm8Reg8 (rm : RmOperand) (reg : Reg3) (s : State) : Host.Outcome State Fault Refusal :=
  .next (retire (Instr.record (.cmpRm8Reg8 rm reg)) s)

/-- R170: `cmp r/m16, reg16`, first byte 0x39 (d = 0, w = 1). -/
def execCmpRm16Reg16 (rm : RmOperand) (reg : Reg3) (s : State) : Host.Outcome State Fault Refusal :=
  .next (retire (Instr.record (.cmpRm16Reg16 rm reg)) s)

/-- R170: `cmp reg8, r/m8`, first byte 0x3A (d = 1, w = 0). -/
def execCmpReg8Rm8 (rm : RmOperand) (reg : Reg3) (s : State) : Host.Outcome State Fault Refusal :=
  .next (retire (Instr.record (.cmpReg8Rm8 rm reg)) s)

/-- R170: `cmp reg16, r/m16`, first byte 0x3B (d = 1, w = 1). -/
def execCmpReg16Rm16 (rm : RmOperand) (reg : Reg3) (s : State) : Host.Outcome State Fault Refusal :=
  .next (retire (Instr.record (.cmpReg16Rm16 rm reg)) s)

end Sys2Proof.Machine
end

