-- ==== Sys2Proof/Machine/Dispatch.lean ====
section
/-! DEFINITION. exec: one arm per constructor, each one direct call of its meaning. -/

namespace Sys2Proof.Machine

def exec (i : Instr) (s : State) : Host.Outcome State Fault Refusal :=
  match i with
  | .movReg8Imm8 reg imm => Sys2Proof.Machine.execMovReg8Imm8 reg imm s
  | .movReg16Imm16 reg imm => Sys2Proof.Machine.execMovReg16Imm16 reg imm s
  | .addAlImm8 imm => Sys2Proof.Machine.execAddAlImm8 imm s
  | .addAxImm16 imm => Sys2Proof.Machine.execAddAxImm16 imm s
  | .subAlImm8 imm => Sys2Proof.Machine.execSubAlImm8 imm s
  | .subAxImm16 imm => Sys2Proof.Machine.execSubAxImm16 imm s
  | .cmpAlImm8 imm => Sys2Proof.Machine.execCmpAlImm8 imm s
  | .cmpAxImm16 imm => Sys2Proof.Machine.execCmpAxImm16 imm s
  | .addRm8Imm8 rm imm => Sys2Proof.Machine.execAddRm8Imm8 rm imm s
  | .addRm16Imm16 rm imm => Sys2Proof.Machine.execAddRm16Imm16 rm imm s
  | .addRm8Imm8S rm imm => Sys2Proof.Machine.execAddRm8Imm8S rm imm s
  | .addRm16Simm8 rm imm => Sys2Proof.Machine.execAddRm16Simm8 rm imm s
  | .subRm8Imm8 rm imm => Sys2Proof.Machine.execSubRm8Imm8 rm imm s
  | .subRm16Imm16 rm imm => Sys2Proof.Machine.execSubRm16Imm16 rm imm s
  | .subRm8Imm8S rm imm => Sys2Proof.Machine.execSubRm8Imm8S rm imm s
  | .subRm16Simm8 rm imm => Sys2Proof.Machine.execSubRm16Simm8 rm imm s
  | .cmpRm8Imm8 rm imm => Sys2Proof.Machine.execCmpRm8Imm8 rm imm s
  | .cmpRm16Imm16 rm imm => Sys2Proof.Machine.execCmpRm16Imm16 rm imm s
  | .cmpRm8Imm8S rm imm => Sys2Proof.Machine.execCmpRm8Imm8S rm imm s
  | .cmpRm16Simm8 rm imm => Sys2Proof.Machine.execCmpRm16Simm8 rm imm s
  | .movRm8Reg8 rm reg => Sys2Proof.Machine.execMovRm8Reg8 rm reg s
  | .movRm16Reg16 rm reg => Sys2Proof.Machine.execMovRm16Reg16 rm reg s
  | .movReg8Rm8 rm reg => Sys2Proof.Machine.execMovReg8Rm8 rm reg s
  | .movReg16Rm16 rm reg => Sys2Proof.Machine.execMovReg16Rm16 rm reg s
  | .addRm8Reg8 rm reg => Sys2Proof.Machine.execAddRm8Reg8 rm reg s
  | .addRm16Reg16 rm reg => Sys2Proof.Machine.execAddRm16Reg16 rm reg s
  | .addReg8Rm8 rm reg => Sys2Proof.Machine.execAddReg8Rm8 rm reg s
  | .addReg16Rm16 rm reg => Sys2Proof.Machine.execAddReg16Rm16 rm reg s
  | .subRm8Reg8 rm reg => Sys2Proof.Machine.execSubRm8Reg8 rm reg s
  | .subRm16Reg16 rm reg => Sys2Proof.Machine.execSubRm16Reg16 rm reg s
  | .subReg8Rm8 rm reg => Sys2Proof.Machine.execSubReg8Rm8 rm reg s
  | .subReg16Rm16 rm reg => Sys2Proof.Machine.execSubReg16Rm16 rm reg s
  | .cmpRm8Reg8 rm reg => Sys2Proof.Machine.execCmpRm8Reg8 rm reg s
  | .cmpRm16Reg16 rm reg => Sys2Proof.Machine.execCmpRm16Reg16 rm reg s
  | .cmpReg8Rm8 rm reg => Sys2Proof.Machine.execCmpReg8Rm8 rm reg s
  | .cmpReg16Rm16 rm reg => Sys2Proof.Machine.execCmpReg16Rm16 rm reg s
  | .jo disp => Sys2Proof.Machine.execJo disp s
  | .jno disp => Sys2Proof.Machine.execJno disp s
  | .jb disp => Sys2Proof.Machine.execJb disp s
  | .jnb disp => Sys2Proof.Machine.execJnb disp s
  | .jz disp => Sys2Proof.Machine.execJz disp s
  | .jnz disp => Sys2Proof.Machine.execJnz disp s
  | .jbe disp => Sys2Proof.Machine.execJbe disp s
  | .ja disp => Sys2Proof.Machine.execJa disp s
  | .js disp => Sys2Proof.Machine.execJs disp s
  | .jns disp => Sys2Proof.Machine.execJns disp s
  | .jp disp => Sys2Proof.Machine.execJp disp s
  | .jnp disp => Sys2Proof.Machine.execJnp disp s
  | .jl disp => Sys2Proof.Machine.execJl disp s
  | .jnl disp => Sys2Proof.Machine.execJnl disp s
  | .jle disp => Sys2Proof.Machine.execJle disp s
  | .jg disp => Sys2Proof.Machine.execJg disp s
  | .loopnz disp => Sys2Proof.Machine.execLoopnz disp s
  | .loopz disp => Sys2Proof.Machine.execLoopz disp s
  | .loop disp => Sys2Proof.Machine.execLoop disp s
  | .jcxz disp => Sys2Proof.Machine.execJcxz disp s

end Sys2Proof.Machine
end

