-- ==== Sys2Proof/Machine/Step.lean ====
section
/-! DEFINITION. One step of the driver (40_decoder_and_step R110), and placing one instruction where it is fetched next. -/

namespace Sys2Proof.Machine

/-- `Step` (R110): outside `Running` no step exists (R18); at the end of the stream the pass is done; a decode error is
latched; a decoded instruction is executed. A stream longer than the cap has no meaning (R25). -/
def step (s : State) : Host.Outcome State Fault Refusal :=
  if s.withinCap then
    match s.phase with
    | .done => .fault .noStepInDone
    | .failed => .fault .noStepInFailed
    | .running =>
      if s.cur = s.buf.len then .next s.finish
      else
        match decodeAt s.buf s.cur with
        | .ok i => exec i s
        | .err e => .next (s.raiseError e)
  else .refused .bufferExceedsCap

/-- The instruction whose table bits are `w`, laid at the cursor, zero above `nbits` up to the longest instruction (log
entry 3). It stands for the host's presentation of a stream (R25): the stream reaches past the instruction, the pass is
`Running` with no error latched (R19), and a cap the stream would exceed is lifted. -/
def State.withFetchWord (s : State) (nbits w : Nat) : State :=
  let buf := (s.buf.grow (s.cur + Config.maxLen)).writeBytes s.cur (tableBytes nbits w)
  { s with
    buf := buf
    phase := .running
    err := none
    cfg := if ({ s with buf := buf } : State).withinCap then s.cfg else { s.cfg with bufCap := none } }

end Sys2Proof.Machine
end

