-- ==== Sys2Proof/Machine/Apply.lean ====
section
/-! DEFINITION. `Apply(D)` read off the decoded record, as the table of 40_decoder_and_step R114 has it: the register file
a record leaves. The meanings apply from the instruction; that both agree is a statement, not a definition. -/

namespace Sys2Proof.Machine

/-- The add, sub, compare of a class 2 record; `none` for any other operation. -/
def arithOp? : Op → Option ArithOp
  | .add => some .add
  | .sub => some .sub
  | .cmp => some .cmp
  | _ => none

/-- Class 1 (R131, R132). -/
def applyMovRecord (D : Record) (r : Regs) : Regs :=
  match D.w, D.reg, D.imm with
  | some true, some i, some v => writeWord r i v
  | some false, some k, some v => writeByte r k (loByte v)
  | _, _, _ => r

/-- Class 2 (R141 to R147): the accumulator at the record's width. -/
def applyAccRecord (mode : AccApply) (D : Record) (r : Regs) : Regs :=
  match D.w, arithOp? D.op, D.imm with
  | some true, some op, some v =>
    match accResult mode op (readWord r 0#3) v with
    | some x => writeWord r 0#3 x
    | none => r
  | some false, some op, some v =>
    match accResult mode op (readByte r 0#3) (loByte v) with
    | some x => writeByte r 0#3 x
    | none => r
  | _, _, _ => r

/-- `Apply(D)` (R114): classes 1 and 2 only. -/
def applyRecord (mode : AccApply) (D : Record) (r : Regs) : Regs :=
  match D.classTag with
  | .immToRegMov => applyMovRecord D r
  | .immToAccArith => applyAccRecord mode D r
  | .immToRmArith | .rmReg | .condJump | .loop => r

end Sys2Proof.Machine
end

