-- ==== Sys2Proof/Machine/Ports.lean ====
section
/-! DEFINITION. The host's ports as atomic transactions (10_state R15, R25 to R30, 60_exceptions R244). None of them runs
an instruction. -/

namespace Sys2Proof.Machine

/-- What a register accessor answers: a value, or an error that changes nothing (R15, R243). -/
inductive PortResult (α : Type) where
  | value (v : α)
  | error (e : ErrorRecord)
deriving DecidableEq, Repr

/-- `get_word(index)` (R15, R30). -/
def getWord (r : Regs) (index : Nat) : PortResult Word :=
  if index < Config.nreg then .value (readWord r (BitVec.ofNat 3 index)) else .error .registerIndexOutOfRange

/-- The byte-half read of index `k` (R15, R30). -/
def getByte (r : Regs) (k : Nat) : PortResult Byte :=
  if k < Config.nreg then .value (readByte r (BitVec.ofNat 3 k)) else .error .registerIndexOutOfRange

/-- `set_word(index, value)` (R15): an accessor of the register file, used by `apply`; the host has no write port (R30). -/
def setWord (r : Regs) (index : Nat) (v : Word) : PortResult Regs :=
  if index < Config.nreg then .value (writeWord r (BitVec.ofNat 3 index) v) else .error .registerIndexOutOfRange

/-- The byte-half write of index `k` (R15). -/
def setByte (r : Regs) (k : Nat) (v : Byte) : PortResult Regs :=
  if k < Config.nreg then .value (writeByte r (BitVec.ofNat 3 k) v) else .error .registerIndexOutOfRange

/-- The numeric code of the error port (R244); `ERR = None` is 0. -/
def errCode : Option ErrorRecord → Nat
  | none => 0
  | some (.unrecognizedOpcode _ _) => 1
  | some (.truncatedInstruction _ _ _) => 2
  | some .registerIndexOutOfRange => 3

/-- What `decode(buffer, cursor)` shows the host: the record or the error (R29, R100). -/
def decodePort (m : Memory) (c : Nat) : PortResult Record :=
  match decodeAt m c with
  | .ok i => .value i.record
  | .err e => .error e

/-- What the sink holds: every line ended by a newline (R28). -/
def sinkText : List Text → Text
  | [] => ""
  | t :: rest => t ++ "\n" ++ sinkText rest

/-- The host's start of a pass (R272): configuration and stream presented, then reset. `P_ACC_APPLY` is no field the host
writes (R21). There is no host move that changes the stream or the configuration during a pass (R283; log entry 9). -/
def State.startPass (s : State) (bufCap : Option Nat) (debug : Bool) (bytes : List Byte) : State :=
  State.hostReset { s with cfg := { s.cfg with bufCap := bufCap, debug := debug }, buf := Memory.ofBytes bytes }

end Sys2Proof.Machine
end

