-- ==== Sys2Proof/Machine/Pass.lean ====
section
/-! DEFINITION. A run: `step` repeated until the phase is not `Running` (10_state R27, 40_decoder_and_step R111). -/

namespace Sys2Proof.Machine

/-- At most `n` steps, none of them taken once the phase has left `Running` (R111, R113). -/
def runPass : Nat → State → Host.Outcome State Fault Refusal
  | 0, s => .next s
  | n + 1, s =>
    if s.phase = .running then
      match step s with
      | .next t => runPass n t
      | .fault f => .fault f
      | .refused r => .refused r
    else .next s

end Sys2Proof.Machine
end

