-- ==== Sys2Proof/Safety.lean ====
section
/-! DEFINITION. What counts as a good state and a good pass, in the terms the statements use. -/

namespace Sys2Proof.Machine

/-- A debug line: its first character is `;` (R117, R224). -/
def isDebugLine (t : Text) : Bool := t.toList.head? == some ';'

/-- The lines of `OUT` that are no debug lines (R117: the filter is exact). -/
def instrLines (out : List Text) : List Text := out.filter fun t => !isDebugLine t

/-- The offset an error record names (R240); none for a register accessor's. -/
def ErrorRecord.offset : ErrorRecord → Option Nat
  | .unrecognizedOpcode offset _ => some offset
  | .truncatedInstruction offset _ _ => some offset
  | .registerIndexOutOfRange => none

/-- `t` is `s` after an instruction of `n` bytes that printed `line` and left the registers `r`; everything else is as it
was (R110, R211). With `CFG.DEBUG = 1` debug lines may stand around the line. -/
def Retired (s t : State) (n : Nat) (line : Text) (r : Regs) : Prop :=
  t.cur = s.cur + n ∧ t.regs = r ∧ s.out <+: t.out ∧ instrLines t.out = instrLines s.out ++ [line] ∧
    (s.cfg.debug = false → t.out = s.out ++ [line] ∧ t.debugSource = s.debugSource) ∧
    t.phase = s.phase ∧ t.err = s.err ∧ t.cfg = s.cfg ∧ t.buf = s.buf

/-- What phase, cursor and error latch say of one another (R17, R18, R19, R113). -/
def PhaseOk (s : State) : Prop :=
  match s.phase with
  | .running => s.err = none
  | .done => s.err = none ∧ s.cur = s.buf.len
  | .failed => ∃ e, s.err = some e ∧ e.offset = some s.cur ∧ s.cur < s.buf.len ∧ decodeAt s.buf s.cur = .err e

/-- The invariant of the machine: the stream in canonical form and within the cap, the cursor inside it (R17), the header
printed (R210), phase, cursor and latch in agreement. -/
def State.Inv (s : State) : Prop :=
  s.buf.wf = true ∧ s.withinCap = true ∧ s.cur ≤ s.buf.len ∧ header <+: s.out ∧ PhaseOk s

/-- Where a linear scan from `c` that decodes exactly these instructions, one after another, ends (R116). -/
def sweepEnd (m : Memory) : Nat → List Instr → Option Nat
  | c, [] => some c
  | c, i :: rest => if decodeAt m c = .ok i then sweepEnd m (c + i.record.length) rest else none

/-- The register file after applying instructions in order to the all-zero one (R113). -/
def regsAfter (mode : AccApply) (is : List Instr) : Regs :=
  is.foldl (fun r i => applyRecord mode i.record r) (Vector.replicate 8 0#16)

/-- The state is that of a linear scan of the stream from index 0 up to the cursor: every instruction before the cursor
was decoded once, printed once and applied once, in stream order (R113, R116, R247). -/
def State.Swept (s : State) : Prop :=
  ∃ is, sweepEnd s.buf 0 is = some s.cur ∧
    instrLines s.out = header ++ is.map (fun i => render i.record) ∧
    s.regs = regsAfter s.cfg.accApply is

/-- A record of a class with every optional field absent (R104). -/
def blankRecord (tag : ClassTag) (op : Op) (length : Nat) : Record :=
  { classTag := tag, op := op, w := none, d := none, s := none, mode := none, reg := none, rm := none, direct := none,
    addr := none, dispSize := none, disp := none, immSize := none, imm := none, jdisp := none, length := length }

/-- Text of the r/m operand of class 4, from its form (R213, R221). -/
def rmText4 (w : Bool) : RmOperand → Text
  | .reg rm => regName rm w
  | .mem0 rm => "[" ++ baseText rm ++ "]"
  | .mem8 rm d => memText rm (some (sext16 d))
  | .mem16 rm d => memText rm (some d)
  | .direct a => directText a

/-- Text of the r/m operand of class 3, from its form: a memory operand carries its size (R216, R220). -/
def rmText3 (w : Bool) : RmOperand → Text
  | .reg rm => regName rm w
  | .mem0 rm => sizeText w ++ " [" ++ baseText rm ++ "]"
  | .mem8 rm d => sizeText w ++ " " ++ memText rm (some (sext16 d))
  | .mem16 rm d => sizeText w ++ " " ++ memText rm (some d)
  | .direct a => sizeText w ++ " " ++ directText a

/-- What an instruction rule of 41 to 45 says, whole: the bytes decode to the instruction wherever they stand; its record;
its length; a stream that ends inside it is truncated, with the bytes needed as R106 counts them (`2` while a mod byte
is missing); and, in every state that meets `pre`, executing it completes, prints `line` and leaves the registers `regs`. -/
def RuleHolds (i : Instr) (bytes : List Byte) (hasMod : Bool) (D : Record) (line : Text)
    (pre : State → Prop) (regs : State → Regs) : Prop :=
  (∀ m c, bytes <+: m.window c Config.maxLen → decodeAt m c = .ok i) ∧
    i.record = D ∧ bytes.length = D.length ∧
    (∀ m c k, 0 < k → k < bytes.length → m.window c Config.maxLen = bytes.take k →
      decodeAt m c = .err (.truncatedInstruction c (if hasMod = true ∧ k = 1 then 2 else bytes.length) k)) ∧
    ∀ s, pre s → ∃ t, exec i s = .next t ∧ Retired s t D.length line (regs s)

/-- A class 5 rule, for every displacement byte (R180 to R200). -/
def JumpRule (i : Byte → Instr) (b0 : Byte) (tag : ClassTag) (op : Op) (mnemonic : Text) : Prop :=
  ∀ disp : Byte,
    RuleHolds (i disp) [b0, disp] false { blankRecord tag op 2 with jdisp := some (signed8 disp) }
      (mnemonic ++ " ; " ++ dec (signed8 disp)) (fun _ => True) (fun s => s.regs)

/-- The unrecognised first bytes (R85). -/
def unrecognisedRanges : List Nat :=
  List.range' 0x06 0x22 ++ List.range' 0x2E 0x0A ++ List.range' 0x3E 0x32 ++ List.range' 0x84 0x04 ++
    List.range' 0x8C 0x24 ++ List.range' 0xC0 0x20 ++ List.range' 0xE4 0x1C

/-- Two states alike but for the debug toggle, what debug lines are drawn from and the debug lines printed (R117). -/
def Undebugged (s u : State) : Prop :=
  u.regs = s.regs ∧ u.cur = s.cur ∧ u.phase = s.phase ∧ u.err = s.err ∧ instrLines u.out = instrLines s.out ∧
    u.cfg.bufCap = s.cfg.bufCap ∧ u.cfg.accApply = s.cfg.accApply ∧ u.buf = s.buf

end Sys2Proof.Machine
end

