-- ==== Sys2Proof/Certificates/Slice0/Obligations.lean ====
section
/-! DEFINITION. The statements for the provers. -/

open Sys2Proof Sys2Proof.Machine

/-- From any state, reset leaves every word and byte register 0, CUR 0, PHASE Running, ERR None, OUT the two header lines, and the configuration and the stream unchanged; State.reset is such a state with the default configuration (no cap, DEBUG 0, arith). That P_ACC_APPLY is arith is 10_state R21, marked by the spec as its own decision D11, and that the configuration carries it is the model's choice (log entry 7). Marked by the spec as its own decision: D16, D26 (92_eei_decisions). [10_state R31, 70_reset_and_hazards R270, 10_state R21, 92_eei_decisions D11, D16, D26] -/
def Obligations.ResetLeavesTheStatedValues : Prop :=
  ∀ s : State,
    ((∀ i, readWord s.hostReset.regs i = 0#16) ∧ (∀ k, readByte s.hostReset.regs k = 0#8) ∧ s.hostReset.cur = 0 ∧
      s.hostReset.phase = .running ∧ s.hostReset.err = none ∧ s.hostReset.out = ["bits 16", ""] ∧
      s.hostReset.cfg = s.cfg ∧ s.hostReset.buf = s.buf) ∧
    ((∀ i, readWord State.reset.regs i = 0#16) ∧ (∀ k, readByte State.reset.regs k = 0#8) ∧ State.reset.cur = 0 ∧
      State.reset.phase = .running ∧ State.reset.err = none ∧ State.reset.out = ["bits 16", ""] ∧
      State.reset.cfg = { bufCap := none, debug := false, accApply := .arith })

/-- State.reset meets the machine's invariant and is that of a linear scan of nothing; so is the state after startPass from any state, with any stream that fits the cap. That State.reset holds the empty stream is the model's choice (log entry 2). [10_state R17, R18, R19, R31, 70_reset_and_hazards R270] -/
def Obligations.ResetMeetsTheInvariant : Prop :=
  (State.reset.Inv ∧ State.reset.Swept) ∧
    ∀ (s : State) (cap : Option Nat) (debug : Bool) (bytes : List Byte), (∀ c, cap = some c → bytes.length ≤ c) →
      (s.startPass cap debug bytes).Inv ∧ (s.startPass cap debug bytes).Swept

/-- For every register file and byte index k: k < 4 reads bits 7:0 of REG[k], k >= 4 reads bits 15:8 of REG[k - 4]. A read is a function of the register file, so it changes nothing. R13 is marked as derived from R12, whose assignment of the halves is marked by the spec as its own decision: D3 (92_eei_decisions). [10_state R12, R13, 92_eei_decisions D3] -/
def Obligations.ByteReadIsHalfOfItsRegister : Prop :=
  ∀ (r : Regs) (k : Reg3),
    (k.toNat < 4 → readByte r k = (readWord r k).extractLsb' 0 8) ∧
    (4 ≤ k.toNat → readByte r k = (readWord r (BitVec.ofNat 3 (k.toNat - 4))).extractLsb' 8 8)

/-- For every register file, byte index k and byte v: below 4 the register REG[k] becomes {REG[k][15:8], v}, from 4 on REG[k-4] becomes {v, REG[k-4][7:0]}; every other register is unchanged; the byte reads back as v, every other byte register reads as before; and a later byte read sees a word write: after REG[1] <- 0x1234, REGB[1] = 0x34 and REGB[5] = 0x12. [R14] -/
def Obligations.ByteWriteKeepsTheOtherHalf : Prop :=
  (∀ (r : Regs) (k : Reg3) (v : Byte),
      (k.toNat < 4 → readWord (writeByte r k v) k = (readWord r k).extractLsb' 8 8 ++ v ∧
        ∀ j, j ≠ k → readWord (writeByte r k v) j = readWord r j) ∧
      (4 ≤ k.toNat → readWord (writeByte r k v) (k - 4#3) = v ++ (readWord r (k - 4#3)).extractLsb' 0 8 ∧
        ∀ j, j ≠ k - 4#3 → readWord (writeByte r k v) j = readWord r j) ∧
      readByte (writeByte r k v) k = v ∧ ∀ j, j ≠ k → readByte (writeByte r k v) j = readByte r j) ∧
    ∀ r : Regs, readByte (writeWord r 1#3 0x1234#16) 1#3 = 0x34#8 ∧ readByte (writeWord r 1#3 0x1234#16) 5#3 = 0x12#8

/-- After REG[i] <- v: REG[i] is v, every other register is unchanged; for i below 4 the byte registers i and i+4 are the halves of v and the other six are unchanged; for i from 4 on no byte register changes. Which byte registers are the halves of which word (R12) is marked by the spec as its own decision: D3 (92_eei_decisions). [10_state R10, R12, R14, 95_test_vectors V7.6, 92_eei_decisions D3] -/
def Obligations.WordWriteReachesItsHalvesOnly : Prop :=
  ∀ (r : Regs) (i : Reg3) (v : Word),
    readWord (writeWord r i v) i = v ∧ (∀ j, j ≠ i → readWord (writeWord r i v) j = readWord r j) ∧
    (i.toNat < 4 → readByte (writeWord r i v) i = v.extractLsb' 0 8 ∧ readByte (writeWord r i v) (i + 4#3) = v.extractLsb' 8 8 ∧
      ∀ k, k ≠ i → k ≠ i + 4#3 → readByte (writeWord r i v) k = readByte r k) ∧
    (4 ≤ i.toNat → ∀ k, readByte (writeWord r i v) k = readByte r k)

/-- For an index in 0..7 get_word, set_word and the byte-half accessors are REG[i], REG[i] <- v, REGB[k], REGB[k] <- v; outside 0..7 each answers RegisterIndexOutOfRange and no register file; no decode raises it. [R15] -/
def Obligations.AccessorsCheckTheirIndex : Prop :=
  (∀ (r : Regs) (i : Reg3) (v : Word) (b : Byte),
      getWord r i.toNat = .value (readWord r i) ∧ setWord r i.toNat v = .value (writeWord r i v) ∧
      getByte r i.toNat = .value (readByte r i) ∧ setByte r i.toNat b = .value (writeByte r i b)) ∧
    (∀ (r : Regs) (n : Nat) (v : Word) (b : Byte), 8 ≤ n →
      getWord r n = .error .registerIndexOutOfRange ∧ setWord r n v = .error .registerIndexOutOfRange ∧
      getByte r n = .error .registerIndexOutOfRange ∧ setByte r n b = .error .registerIndexOutOfRange) ∧
    ∀ m c, decodeAt m c ≠ .err .registerIndexOutOfRange

/-- Whole rule: the bytes decode to it wherever they stand in a stream; the record; the length; every proper prefix at the end of the stream is TruncatedInstruction with the rule's needed and available; and executing it in every state completes, advances CUR by the length, prints the line, writes the immediate to the byte register as R14 has it, and leaves everything else as it was. [R131] -/
def Obligations.MovReg8Imm8MeetsItsRule : Prop :=
  ∀ (reg : Reg3) (imm : Byte),
    RuleHolds (.movReg8Imm8 reg imm) [0b10110#5 ++ reg, imm] false
      { blankRecord .immToRegMov .mov 2 with w := some false, reg := some reg, immSize := some 1, imm := some (zext16 imm) }
      ("mov " ++ regName reg false ++ ", " ++ dec imm.toNat) (fun _ => True) (fun s => writeByte s.regs reg imm)

/-- Whole rule: the bytes decode to it wherever they stand in a stream; the record; the length; every proper prefix at the end of the stream is TruncatedInstruction with the rule's needed and available; and executing it in every state completes, advances CUR by the length, prints the line, writes the immediate to the word register, and leaves everything else as it was. [R132] -/
def Obligations.MovReg16Imm16MeetsItsRule : Prop :=
  ∀ (reg : Reg3) (lo hi : Byte),
    RuleHolds (.movReg16Imm16 reg (hi ++ lo)) [0b10111#5 ++ reg, lo, hi] false
      { blankRecord .immToRegMov .mov 3 with w := some true, reg := some reg, immSize := some 2, imm := some (hi ++ lo) }
      ("mov " ++ regName reg true ++ ", " ++ dec (hi ++ lo).toNat) (fun _ => True)
      (fun s => writeWord s.regs reg (hi ++ lo))

/-- Whole rule: the bytes decode to it wherever they stand in a stream; the record; the length; every proper prefix at the end of the stream is TruncatedInstruction with the rule's needed and available; and executing it in every state with P_ACC_APPLY = arith (the value the spec fixes, 10_state R21, decision D11, log entry 7; every step keeps it) completes, advances CUR by the length, prints the line, leaves (al + imm) mod 256 in al with ah kept, and leaves everything else as it was. [R141] -/
def Obligations.AddAlImm8MeetsItsRule : Prop :=
  ∀ imm : Byte,
    RuleHolds (.addAlImm8 imm) [0x04#8, imm] false
      { blankRecord .immToAccArith .add 2 with w := some false, immSize := some 1, imm := some (zext16 imm) }
      ("add al, " ++ dec imm.toNat) (fun s => s.cfg.accApply = .arith) (fun s => writeByte s.regs 0#3 (BitVec.ofNat 8 (((readByte s.regs 0#3).toNat + imm.toNat) % 256)))

/-- Whole rule: the bytes decode to it wherever they stand in a stream; the record; the length; every proper prefix at the end of the stream is TruncatedInstruction with the rule's needed and available; and executing it in every state with P_ACC_APPLY = arith (the value the spec fixes, 10_state R21, decision D11, log entry 7; every step keeps it) completes, advances CUR by the length, prints the line, leaves (ax + imm) mod 65536 in ax, and leaves everything else as it was. [R142] -/
def Obligations.AddAxImm16MeetsItsRule : Prop :=
  ∀ lo hi : Byte,
    RuleHolds (.addAxImm16 (hi ++ lo)) [0x05#8, lo, hi] false
      { blankRecord .immToAccArith .add 3 with w := some true, immSize := some 2, imm := some (hi ++ lo) }
      ("add ax, " ++ dec (hi ++ lo).toNat) (fun s => s.cfg.accApply = .arith) (fun s => writeWord s.regs 0#3 (BitVec.ofNat 16 (((readWord s.regs 0#3).toNat + (hi ++ lo).toNat) % 65536)))

/-- Whole rule: the bytes decode to it wherever they stand in a stream; the record; the length; every proper prefix at the end of the stream is TruncatedInstruction with the rule's needed and available; and executing it in every state with P_ACC_APPLY = arith (the value the spec fixes, 10_state R21, decision D11, log entry 7; every step keeps it) completes, advances CUR by the length, prints the line, leaves (al + 256 - imm) mod 256 in al with ah kept, and leaves everything else as it was. [R143] -/
def Obligations.SubAlImm8MeetsItsRule : Prop :=
  ∀ imm : Byte,
    RuleHolds (.subAlImm8 imm) [0x2C#8, imm] false
      { blankRecord .immToAccArith .sub 2 with w := some false, immSize := some 1, imm := some (zext16 imm) }
      ("sub al, " ++ dec imm.toNat) (fun s => s.cfg.accApply = .arith) (fun s => writeByte s.regs 0#3 (BitVec.ofNat 8 (((readByte s.regs 0#3).toNat + 256 - imm.toNat) % 256)))

/-- Whole rule: the bytes decode to it wherever they stand in a stream; the record; the length; every proper prefix at the end of the stream is TruncatedInstruction with the rule's needed and available; and executing it in every state with P_ACC_APPLY = arith (the value the spec fixes, 10_state R21, decision D11, log entry 7; every step keeps it) completes, advances CUR by the length, prints the line, leaves (ax + 65536 - imm) mod 65536 in ax, and leaves everything else as it was. [R144] -/
def Obligations.SubAxImm16MeetsItsRule : Prop :=
  ∀ lo hi : Byte,
    RuleHolds (.subAxImm16 (hi ++ lo)) [0x2D#8, lo, hi] false
      { blankRecord .immToAccArith .sub 3 with w := some true, immSize := some 2, imm := some (hi ++ lo) }
      ("sub ax, " ++ dec (hi ++ lo).toNat) (fun s => s.cfg.accApply = .arith) (fun s => writeWord s.regs 0#3 (BitVec.ofNat 16 (((readWord s.regs 0#3).toNat + 65536 - (hi ++ lo).toNat) % 65536)))

/-- Whole rule: the bytes decode to it wherever they stand in a stream; the record; the length; every proper prefix at the end of the stream is TruncatedInstruction with the rule's needed and available; and executing it in every state with P_ACC_APPLY = arith (the value the spec fixes, 10_state R21, decision D11, log entry 7; every step keeps it) completes, advances CUR by the length, prints the line, writes no register, and leaves everything else as it was. [R145, R146] -/
def Obligations.CmpAccumulatorMeetsItsRules : Prop :=
  (∀ imm : Byte,
    RuleHolds (.cmpAlImm8 imm) [0x3C#8, imm] false
      { blankRecord .immToAccArith .cmp 2 with w := some false, immSize := some 1, imm := some (zext16 imm) }
      ("cmp al, " ++ dec imm.toNat) (fun s => s.cfg.accApply = .arith) (fun s => s.regs)) ∧
    ∀ lo hi : Byte,
    RuleHolds (.cmpAxImm16 (hi ++ lo)) [0x3D#8, lo, hi] false
      { blankRecord .immToAccArith .cmp 3 with w := some true, immSize := some 2, imm := some (hi ++ lo) }
      ("cmp ax, " ++ dec (hi ++ lo).toNat) (fun s => s.cfg.accApply = .arith) (fun s => s.regs)

/-- The alternative setting, which this hardware does not take (log entry 7): each of the six completes, advances CUR by its length, and loads al (ah kept) or ax with the immediate, compare included. [92_eei_decisions D11, 42_arith_imm_acc R147] -/
def Obligations.LoadImmSettingLoadsTheAccumulator : Prop :=
  ∀ s : State, s.cfg.accApply = .loadImm →
    (∀ imm : Byte, ∀ i ∈ [Instr.addAlImm8 imm, .subAlImm8 imm, .cmpAlImm8 imm],
      ∃ t, exec i s = .next t ∧ Retired s t 2 (render i.record) (writeByte s.regs 0#3 imm)) ∧
    ∀ imm : Word, ∀ i ∈ [Instr.addAxImm16 imm, .subAxImm16 imm, .cmpAxImm16 imm],
      ∃ t, exec i s = .next t ∧ Retired s t 3 (render i.record) (writeWord s.regs 0#3 imm)

/-- For first bytes 0x80 to 0x83 and every operand form. Whole rule: the bytes decode to it wherever they stand in a stream; the record; the length; every proper prefix at the end of the stream is TruncatedInstruction with the rule's needed and available; and executing it in every state completes, advances CUR by the length, prints the line, writes no register and no memory, and leaves everything else as it was. The 0x82 row (one immediate byte, zero-extended, s = 1 kept: R151, R72) is marked by the spec as its own decision D7, the length with a 2-byte immediate (R75) as D6, the signed reading of displacements (R70) as D10 (92_eei_decisions). [43_arith_imm_rm R153, R151, 30_encoding R70, R72, R75, 92_eei_decisions D6, D7, D10] -/
def Obligations.AddRmImmMeetsItsRule : Prop :=
  ∀ rm : RmOperand, rm.class3Ok = true →
    (∀ imm : Byte, RuleHolds (.addRm8Imm8 rm imm) (0x80#8 :: (rm.encode 0b000#3 ++ [imm])) true
        (recArithImmRm .add false false rm 1 (zext16 imm)) ("add " ++ rmText3 false rm ++ ", " ++ dec imm.toNat)
        (fun _ => True) (fun s => s.regs)) ∧
    (∀ lo hi : Byte, RuleHolds (.addRm16Imm16 rm (hi ++ lo)) (0x81#8 :: (rm.encode 0b000#3 ++ [lo, hi])) true
        (recArithImmRm .add false true rm 2 (hi ++ lo)) ("add " ++ rmText3 true rm ++ ", " ++ dec (hi ++ lo).toNat)
        (fun _ => True) (fun s => s.regs)) ∧
    (∀ imm : Byte, RuleHolds (.addRm8Imm8S rm imm) (0x82#8 :: (rm.encode 0b000#3 ++ [imm])) true
        (recArithImmRm .add true false rm 1 (zext16 imm)) ("add " ++ rmText3 false rm ++ ", " ++ dec imm.toNat)
        (fun _ => True) (fun s => s.regs)) ∧
    (∀ imm : Byte, RuleHolds (.addRm16Simm8 rm imm) (0x83#8 :: (rm.encode 0b000#3 ++ [imm])) true
        (recArithImmRm .add true true rm 1 (sext16 imm)) ("add " ++ rmText3 true rm ++ ", " ++ dec (sext16 imm).toNat)
        (fun _ => True) (fun s => s.regs))

/-- For first bytes 0x80 to 0x83 and every operand form. Whole rule: the bytes decode to it wherever they stand in a stream; the record; the length; every proper prefix at the end of the stream is TruncatedInstruction with the rule's needed and available; and executing it in every state completes, advances CUR by the length, prints the line, writes no register and no memory, and leaves everything else as it was. The 0x82 row (one immediate byte, zero-extended, s = 1 kept: R151, R72) is marked by the spec as its own decision D7, the length with a 2-byte immediate (R75) as D6, the signed reading of displacements (R70) as D10 (92_eei_decisions). [43_arith_imm_rm R154, R151, 30_encoding R70, R72, R75, 92_eei_decisions D6, D7, D10] -/
def Obligations.SubRmImmMeetsItsRule : Prop :=
  ∀ rm : RmOperand, rm.class3Ok = true →
    (∀ imm : Byte, RuleHolds (.subRm8Imm8 rm imm) (0x80#8 :: (rm.encode 0b101#3 ++ [imm])) true
        (recArithImmRm .sub false false rm 1 (zext16 imm)) ("sub " ++ rmText3 false rm ++ ", " ++ dec imm.toNat)
        (fun _ => True) (fun s => s.regs)) ∧
    (∀ lo hi : Byte, RuleHolds (.subRm16Imm16 rm (hi ++ lo)) (0x81#8 :: (rm.encode 0b101#3 ++ [lo, hi])) true
        (recArithImmRm .sub false true rm 2 (hi ++ lo)) ("sub " ++ rmText3 true rm ++ ", " ++ dec (hi ++ lo).toNat)
        (fun _ => True) (fun s => s.regs)) ∧
    (∀ imm : Byte, RuleHolds (.subRm8Imm8S rm imm) (0x82#8 :: (rm.encode 0b101#3 ++ [imm])) true
        (recArithImmRm .sub true false rm 1 (zext16 imm)) ("sub " ++ rmText3 false rm ++ ", " ++ dec imm.toNat)
        (fun _ => True) (fun s => s.regs)) ∧
    (∀ imm : Byte, RuleHolds (.subRm16Simm8 rm imm) (0x83#8 :: (rm.encode 0b101#3 ++ [imm])) true
        (recArithImmRm .sub true true rm 1 (sext16 imm)) ("sub " ++ rmText3 true rm ++ ", " ++ dec (sext16 imm).toNat)
        (fun _ => True) (fun s => s.regs))

/-- For first bytes 0x80 to 0x83 and every operand form. Whole rule: the bytes decode to it wherever they stand in a stream; the record; the length; every proper prefix at the end of the stream is TruncatedInstruction with the rule's needed and available; and executing it in every state completes, advances CUR by the length, prints the line, writes no register and no memory, and leaves everything else as it was. The 0x82 row (one immediate byte, zero-extended, s = 1 kept: R151, R72) is marked by the spec as its own decision D7, the length with a 2-byte immediate (R75) as D6, the signed reading of displacements (R70) as D10 (92_eei_decisions). [43_arith_imm_rm R155, R151, 30_encoding R70, R72, R75, 92_eei_decisions D6, D7, D10] -/
def Obligations.CmpRmImmMeetsItsRule : Prop :=
  ∀ rm : RmOperand, rm.class3Ok = true →
    (∀ imm : Byte, RuleHolds (.cmpRm8Imm8 rm imm) (0x80#8 :: (rm.encode 0b111#3 ++ [imm])) true
        (recArithImmRm .cmp false false rm 1 (zext16 imm)) ("cmp " ++ rmText3 false rm ++ ", " ++ dec imm.toNat)
        (fun _ => True) (fun s => s.regs)) ∧
    (∀ lo hi : Byte, RuleHolds (.cmpRm16Imm16 rm (hi ++ lo)) (0x81#8 :: (rm.encode 0b111#3 ++ [lo, hi])) true
        (recArithImmRm .cmp false true rm 2 (hi ++ lo)) ("cmp " ++ rmText3 true rm ++ ", " ++ dec (hi ++ lo).toNat)
        (fun _ => True) (fun s => s.regs)) ∧
    (∀ imm : Byte, RuleHolds (.cmpRm8Imm8S rm imm) (0x82#8 :: (rm.encode 0b111#3 ++ [imm])) true
        (recArithImmRm .cmp true false rm 1 (zext16 imm)) ("cmp " ++ rmText3 false rm ++ ", " ++ dec imm.toNat)
        (fun _ => True) (fun s => s.regs)) ∧
    (∀ imm : Byte, RuleHolds (.cmpRm16Simm8 rm imm) (0x83#8 :: (rm.encode 0b111#3 ++ [imm])) true
        (recArithImmRm .cmp true true rm 1 (sext16 imm)) ("cmp " ++ rmText3 true rm ++ ", " ++ dec (sext16 imm).toNat)
        (fun _ => True) (fun s => s.regs))

/-- For the four first bytes and every operand form. Whole rule: the bytes decode to it wherever they stand in a stream; the record; the length; every proper prefix at the end of the stream is TruncatedInstruction with the rule's needed and available; and executing it in every state completes, advances CUR by the length, prints the line, writes no register and no memory (mov included, R172), and leaves everything else as it was. The form mod 00, rm 110 (R171) is marked by the spec as its own decision D9, the signed reading of displacements (R70) as D10 (92_eei_decisions). [44_rm_reg R167, R171, 30_encoding R69, R70, 92_eei_decisions D9, D10] -/
def Obligations.MovRmRegMeetsItsRule : Prop :=
  ∀ (rm : RmOperand) (reg : Reg3), rm.class4Ok = true →
    RuleHolds (.movRm8Reg8 rm reg) (0x88#8 :: rm.encode reg) true (recRmReg .mov false false rm reg)
      ("mov " ++ rmText4 false rm ++ ", " ++ regName reg false) (fun _ => True) (fun s => s.regs) ∧
    RuleHolds (.movRm16Reg16 rm reg) (0x89#8 :: rm.encode reg) true (recRmReg .mov false true rm reg)
      ("mov " ++ rmText4 true rm ++ ", " ++ regName reg true) (fun _ => True) (fun s => s.regs) ∧
    RuleHolds (.movReg8Rm8 rm reg) (0x8A#8 :: rm.encode reg) true (recRmReg .mov true false rm reg)
      ("mov " ++ regName reg false ++ ", " ++ rmText4 false rm) (fun _ => True) (fun s => s.regs) ∧
    RuleHolds (.movReg16Rm16 rm reg) (0x8B#8 :: rm.encode reg) true (recRmReg .mov true true rm reg)
      ("mov " ++ regName reg true ++ ", " ++ rmText4 true rm) (fun _ => True) (fun s => s.regs)

/-- For the four first bytes and every operand form. Whole rule: the bytes decode to it wherever they stand in a stream; the record; the length; every proper prefix at the end of the stream is TruncatedInstruction with the rule's needed and available; and executing it in every state completes, advances CUR by the length, prints the line, writes no register and no memory (mov included, R172), and leaves everything else as it was. The form mod 00, rm 110 (R171) is marked by the spec as its own decision D9, the signed reading of displacements (R70) as D10 (92_eei_decisions). [44_rm_reg R168, R171, 30_encoding R69, R70, 92_eei_decisions D9, D10] -/
def Obligations.AddRmRegMeetsItsRule : Prop :=
  ∀ (rm : RmOperand) (reg : Reg3), rm.class4Ok = true →
    RuleHolds (.addRm8Reg8 rm reg) (0x00#8 :: rm.encode reg) true (recRmReg .add false false rm reg)
      ("add " ++ rmText4 false rm ++ ", " ++ regName reg false) (fun _ => True) (fun s => s.regs) ∧
    RuleHolds (.addRm16Reg16 rm reg) (0x01#8 :: rm.encode reg) true (recRmReg .add false true rm reg)
      ("add " ++ rmText4 true rm ++ ", " ++ regName reg true) (fun _ => True) (fun s => s.regs) ∧
    RuleHolds (.addReg8Rm8 rm reg) (0x02#8 :: rm.encode reg) true (recRmReg .add true false rm reg)
      ("add " ++ regName reg false ++ ", " ++ rmText4 false rm) (fun _ => True) (fun s => s.regs) ∧
    RuleHolds (.addReg16Rm16 rm reg) (0x03#8 :: rm.encode reg) true (recRmReg .add true true rm reg)
      ("add " ++ regName reg true ++ ", " ++ rmText4 true rm) (fun _ => True) (fun s => s.regs)

/-- For the four first bytes and every operand form. Whole rule: the bytes decode to it wherever they stand in a stream; the record; the length; every proper prefix at the end of the stream is TruncatedInstruction with the rule's needed and available; and executing it in every state completes, advances CUR by the length, prints the line, writes no register and no memory (mov included, R172), and leaves everything else as it was. The form mod 00, rm 110 (R171) is marked by the spec as its own decision D9, the signed reading of displacements (R70) as D10 (92_eei_decisions). [44_rm_reg R169, R171, 30_encoding R69, R70, 92_eei_decisions D9, D10] -/
def Obligations.SubRmRegMeetsItsRule : Prop :=
  ∀ (rm : RmOperand) (reg : Reg3), rm.class4Ok = true →
    RuleHolds (.subRm8Reg8 rm reg) (0x28#8 :: rm.encode reg) true (recRmReg .sub false false rm reg)
      ("sub " ++ rmText4 false rm ++ ", " ++ regName reg false) (fun _ => True) (fun s => s.regs) ∧
    RuleHolds (.subRm16Reg16 rm reg) (0x29#8 :: rm.encode reg) true (recRmReg .sub false true rm reg)
      ("sub " ++ rmText4 true rm ++ ", " ++ regName reg true) (fun _ => True) (fun s => s.regs) ∧
    RuleHolds (.subReg8Rm8 rm reg) (0x2A#8 :: rm.encode reg) true (recRmReg .sub true false rm reg)
      ("sub " ++ regName reg false ++ ", " ++ rmText4 false rm) (fun _ => True) (fun s => s.regs) ∧
    RuleHolds (.subReg16Rm16 rm reg) (0x2B#8 :: rm.encode reg) true (recRmReg .sub true true rm reg)
      ("sub " ++ regName reg true ++ ", " ++ rmText4 true rm) (fun _ => True) (fun s => s.regs)

/-- For the four first bytes and every operand form. Whole rule: the bytes decode to it wherever they stand in a stream; the record; the length; every proper prefix at the end of the stream is TruncatedInstruction with the rule's needed and available; and executing it in every state completes, advances CUR by the length, prints the line, writes no register and no memory (mov included, R172), and leaves everything else as it was. The form mod 00, rm 110 (R171) is marked by the spec as its own decision D9, the signed reading of displacements (R70) as D10 (92_eei_decisions). [44_rm_reg R170, R171, 30_encoding R69, R70, 92_eei_decisions D9, D10] -/
def Obligations.CmpRmRegMeetsItsRule : Prop :=
  ∀ (rm : RmOperand) (reg : Reg3), rm.class4Ok = true →
    RuleHolds (.cmpRm8Reg8 rm reg) (0x38#8 :: rm.encode reg) true (recRmReg .cmp false false rm reg)
      ("cmp " ++ rmText4 false rm ++ ", " ++ regName reg false) (fun _ => True) (fun s => s.regs) ∧
    RuleHolds (.cmpRm16Reg16 rm reg) (0x39#8 :: rm.encode reg) true (recRmReg .cmp false true rm reg)
      ("cmp " ++ rmText4 true rm ++ ", " ++ regName reg true) (fun _ => True) (fun s => s.regs) ∧
    RuleHolds (.cmpReg8Rm8 rm reg) (0x3A#8 :: rm.encode reg) true (recRmReg .cmp true false rm reg)
      ("cmp " ++ regName reg false ++ ", " ++ rmText4 false rm) (fun _ => True) (fun s => s.regs) ∧
    RuleHolds (.cmpReg16Rm16 rm reg) (0x3B#8 :: rm.encode reg) true (recRmReg .cmp true true rm reg)
      ("cmp " ++ regName reg true ++ ", " ++ rmText4 true rm) (fun _ => True) (fun s => s.regs)

/-- For every class 4 first byte, register field and stream: with mod byte 00 reg 110 the record has mode MEM0, rm 6, direct 0, no address, disp_size 0, length 2, and the r/m text is [bp]; 8B 1E 34 12 decodes at 0 as mov bx, [bp] and at 2 is UnrecognizedOpcode{2, 0x34}. Marked by the spec as its own decision: D9 (92_eei_decisions). [44_rm_reg R171, 92_eei_decisions D9] -/
def Obligations.ClassFourHasNoDirectAddress : Prop :=
  (∀ b0 ∈ ([0x88, 0x89, 0x8A, 0x8B, 0x00, 0x01, 0x02, 0x03, 0x28, 0x29, 0x2A, 0x2B, 0x38, 0x39, 0x3A, 0x3B] : List Byte),
      ∀ (reg : Reg3) (m : Memory) (c : Nat), [b0, modByte 0b00#2 reg 0b110#3] <+: m.window c Config.maxLen →
        ∃ i, decodeAt m c = .ok i ∧ i.record.classTag = .rmReg ∧ i.record.mode = some .mem0 ∧ i.record.rm = some 6#3 ∧
          i.record.direct = some false ∧ i.record.addr = none ∧ i.record.dispSize = some 0 ∧ i.record.disp = none ∧
          i.record.length = 2 ∧ rmField i.record = "[bp]") ∧
    decodeAt (Memory.ofBytes [0x8B#8, 0x1E#8, 0x34#8, 0x12#8]) 0 = .ok (.movReg16Rm16 (.mem0 6#3) 3#3) ∧
    render (Instr.movReg16Rm16 (.mem0 6#3) 3#3).record = "mov bx, [bp]" ∧
    decodeAt (Memory.ofBytes [0x8B#8, 0x1E#8, 0x34#8, 0x12#8]) 2 = .err (.unrecognizedOpcode 2 0x34#8)

/-- For every displacement byte. Whole rule: the bytes decode to it wherever they stand in a stream; the record; the length; every proper prefix at the end of the stream is TruncatedInstruction with the rule's needed and available; and executing it in every state completes, advances CUR by the length, prints the line, writes no register (cx included), takes no jump, and leaves everything else as it was. Marked by the spec as its own decision: D5 (92_eei_decisions). [45_jcc_loop R181 to R188, 92_eei_decisions D5] -/
def Obligations.OverflowToAboveJumpsMeetTheirRules : Prop :=
  JumpRule .jo 0x70#8 .condJump .jo "jo" ∧
    JumpRule .jno 0x71#8 .condJump .jno "jno" ∧
    JumpRule .jb 0x72#8 .condJump .jb "jb" ∧
    JumpRule .jnb 0x73#8 .condJump .jnb "jnb" ∧
    JumpRule .jz 0x74#8 .condJump .jz "jz" ∧
    JumpRule .jnz 0x75#8 .condJump .jnz "jnz" ∧
    JumpRule .jbe 0x76#8 .condJump .jbe "jbe" ∧
    JumpRule .ja 0x77#8 .condJump .ja "ja"

/-- For every displacement byte. Whole rule: the bytes decode to it wherever they stand in a stream; the record; the length; every proper prefix at the end of the stream is TruncatedInstruction with the rule's needed and available; and executing it in every state completes, advances CUR by the length, prints the line, writes no register (cx included), takes no jump, and leaves everything else as it was. Marked by the spec as its own decision: D5 (92_eei_decisions). [45_jcc_loop R189 to R196, 92_eei_decisions D5] -/
def Obligations.SignToGreaterJumpsMeetTheirRules : Prop :=
  JumpRule .js 0x78#8 .condJump .js "js" ∧
    JumpRule .jns 0x79#8 .condJump .jns "jns" ∧
    JumpRule .jp 0x7A#8 .condJump .jp "jp" ∧
    JumpRule .jnp 0x7B#8 .condJump .jnp "jnp" ∧
    JumpRule .jl 0x7C#8 .condJump .jl "jl" ∧
    JumpRule .jnl 0x7D#8 .condJump .jnl "jnl" ∧
    JumpRule .jle 0x7E#8 .condJump .jle "jle" ∧
    JumpRule .jg 0x7F#8 .condJump .jg "jg"

/-- For every displacement byte. Whole rule: the bytes decode to it wherever they stand in a stream; the record; the length; every proper prefix at the end of the stream is TruncatedInstruction with the rule's needed and available; and executing it in every state completes, advances CUR by the length, prints the line, writes no register (cx included), takes no jump, and leaves everything else as it was. Marked by the spec as its own decision: D5 (92_eei_decisions). [45_jcc_loop R197 to R200, 92_eei_decisions D5] -/
def Obligations.LoopFamilyMeetsItsRules : Prop :=
  JumpRule .loopnz 0xE0#8 .loop .loopnz "loopnz" ∧
    JumpRule .loopz 0xE1#8 .loop .loopz "loopz" ∧
    JumpRule .loop 0xE2#8 .loop .loop "loop" ∧
    JumpRule .jcxz 0xE3#8 .loop .jcxz "jcxz"

/-- For every instruction whose record is COND_JUMP or LOOP, in every state: it completes; CUR + 2; exactly one instruction line, the mnemonic, ` ; ` and the signed displacement; registers, phase, latch, configuration and stream unchanged; and from a state with any other register file it does the same. That the debug lines printed with DEBUG = 1 do not depend on the registers either is the model's choice, an unsafe one (log entry 4). [45_jcc_loop R201] -/
def Obligations.JumpsNeverTransferControl : Prop :=
  ∀ (i : Instr) (s : State), (i.record.classTag = .condJump ∨ i.record.classTag = .loop) →
    ∃ (t : State) (j : Int), exec i s = .next t ∧ i.record.jdisp = some j ∧
      Retired s t 2 (opText i.record.op ++ " ; " ++ dec j) s.regs ∧
      ∀ r : Regs, exec i (s.setRegs r) = .next (t.setRegs r)

/-- For every instruction and state, exec completes, and it is the retired state (cursor advanced, line printed) with the registers Apply of the record gives: class 1 the register or half set to the immediate, class 2 the accumulator, the other four tags the register file unchanged. [R114] -/
def Obligations.ApplyIsTheTableOfClasses : Prop :=
  ∀ (i : Instr) (s : State),
    exec i s = .next ((retire i.record s).setRegs (applyRecord s.cfg.accApply i.record s.regs)) ∧
    (i.record.classTag ≠ .immToRegMov → i.record.classTag ≠ .immToAccArith →
      applyRecord s.cfg.accApply i.record s.regs = s.regs)

/-- When exec gives a next state: every byte of the stream reads as before, and length, configuration, phase and latch are unchanged; OUT only grows; a class 1 word move changes only REG[reg], a byte move only the register of its half, keeping the other half; class 2 only REG[0], in byte width only its low byte; every other instruction no register. [10_state R16, R20, R24, 20_memory R46, R51, 43_arith_imm_rm R156, 44_rm_reg R172, 45_jcc_loop R201, 40_decoder_and_step R110, R112] -/
def Obligations.FrameOfEveryInstruction : Prop :=
  ∀ (i : Instr) (s t : State), exec i s = .next t →
    ((∀ a, t.buf.read a = s.buf.read a) ∧ t.buf = s.buf ∧ t.cfg = s.cfg ∧ t.phase = s.phase ∧ t.err = s.err ∧
      s.out <+: t.out ∧ (s.cfg.debug = false → t.debugSource = s.debugSource)) ∧
    match i with
    | .movReg16Imm16 reg _ => ∀ j, j ≠ reg → readWord t.regs j = readWord s.regs j
    | .movReg8Imm8 reg _ =>
      (∀ j : Reg3, j.toNat ≠ reg.toNat % 4 → readWord t.regs j = readWord s.regs j) ∧
        ∀ k, k ≠ reg → readByte t.regs k = readByte s.regs k
    | .addAlImm8 _ | .subAlImm8 _ | .cmpAlImm8 _ =>
      (∀ j, j ≠ 0#3 → readWord t.regs j = readWord s.regs j) ∧ ∀ k, k ≠ 0#3 → readByte t.regs k = readByte s.regs k
    | .addAxImm16 _ | .subAxImm16 _ | .cmpAxImm16 _ => ∀ j, j ≠ 0#3 → readWord t.regs j = readWord s.regs j
    | _ => t.regs = s.regs

/-- With any other register file, a step faults or refuses alike, and gives the same next state but for its registers: those are the other file as it was where the stream ends or decoding errs, and Apply of the decoded record on the other file where an instruction runs; and Apply of a record outside classes 1 and 2 is the file as it was. That the debug lines printed with DEBUG = 1 do not depend on the registers either is the model's choice (log entry 4). [10_state R16, R24, 40_decoder_and_step R100, R114, 70_reset_and_hazards R282] -/
def Obligations.RegistersReachOnlyRegisters : Prop :=
  (∀ (s : State) (r : Regs),
      (∀ t, step s = .next t → step (s.setRegs r) = .next (t.setRegs
        (if s.cur = s.buf.len then r else
          match decodeAt s.buf s.cur with
          | .ok i => applyRecord s.cfg.accApply i.record r
          | .err _ => r))) ∧
      (∀ f, step s = .fault f → step (s.setRegs r) = .fault f) ∧
      ∀ q, step s = .refused q → step (s.setRegs r) = .refused q) ∧
    ∀ (mode : AccApply) (i : Instr) (r : Regs), i.record.classTag ≠ .immToRegMov → i.record.classTag ≠ .immToAccArith →
      applyRecord mode i.record r = r

/-- In a Running state within the cap: if the decoder reads instruction i from the bytes at CUR, step is exec of i; and if the bytes at CUR begin with the encoding of a well-formed i, decoding at CUR answers exactly i and step is exec of i. The cursor is advanced inside exec. [40_decoder_and_step R110, R115, 20_memory R44] -/
def Obligations.StepRunsTheDecodedInstruction : Prop :=
  ∀ (s : State) (i : Instr), s.withinCap = true → s.phase = .running →
    (decodeBytes (s.buf.window s.cur Config.maxLen) = .ok i → step s = exec i s) ∧
    (i.wellFormed = true → encode i <+: s.buf.window s.cur Config.maxLen →
      decodeAt s.buf s.cur = .ok i ∧ step s = exec i s)

/-- In a Running state within the cap with CUR at most N, exactly one of: CUR = N and only the phase changes, to Done; the decoder errs and only the latch and the phase change; the decoder gives a record and the next state has the cursor advanced by its length, one more instruction line, Apply of the record, everything else unchanged. [40_decoder_and_step R110, R112, 48_render_syntax R211, 10_state R25] -/
def Obligations.DriverStepFollowsItsProcedure : Prop :=
  ∀ s : State, s.withinCap = true → s.phase = .running → s.cur ≤ s.buf.len →
    (s.cur = s.buf.len → step s = .next { s with phase := .done }) ∧
    (s.cur < s.buf.len →
      (∀ e, decodeAt s.buf s.cur = .err e → step s = .next { s with err := some e, phase := .failed }) ∧
      ∀ i, decodeAt s.buf s.cur = .ok i → ∃ t, step s = .next t ∧
        Retired s t i.record.length (render i.record) (applyRecord s.cfg.accApply i.record s.regs))

/-- A Running step whose decode errs gives the state with ERR the record and PHASE Failed, CUR equal to the record's offset, registers, output, configuration and stream unchanged. That CUR, REG and OUT are kept is marked by the spec as its own decision: D15 (92_eei_decisions); that OUT gains no line with DEBUG = 1 either is the model's choice (log entry 4). [60_exceptions R246, R247, R248, 92_eei_decisions D15] -/
def Obligations.TakingAnErrorLatchesAndStops : Prop :=
  ∀ (s : State) (e : ErrorRecord), s.withinCap = true → s.phase = .running → s.cur ≠ s.buf.len →
    decodeAt s.buf s.cur = .err e →
    ∃ t, step s = .next t ∧ t.err = some e ∧ t.phase = .failed ∧ e.offset = some t.cur ∧ t.cur = s.cur ∧
      t.regs = s.regs ∧ t.out = s.out ∧ t.cfg = s.cfg ∧ t.buf = s.buf ∧ t.debugSource = s.debugSource

/-- Within the cap, step in Done or Failed stops with that name, and it stops nowhere else; above the cap it is refused by name, whatever the phase; reset from any state is Running. That a step that does not exist is a fault, and a stream above the cap a refusal, is the model's choice (log entries 5 and 6). [10_state R18, 40_decoder_and_step R110, R113, 10_state R25] -/
def Obligations.NoStepAfterThePassEnds : Prop :=
  ∀ s : State,
    (s.withinCap = true → (step s = .fault .noStepInDone ↔ s.phase = .done) ∧
      (step s = .fault .noStepInFailed ↔ s.phase = .failed) ∧ (s.phase = .running → ∃ t, step s = .next t)) ∧
    (s.withinCap = false ↔ step s = .refused .bufferExceedsCap) ∧ s.hostReset.phase = .running

/-- For every state that meets the invariant and takes a step: either the phase stays Running with the cursor advanced by 2 to 6 and not past N, or the cursor is unchanged and the phase is Done or Failed; the stream and the configuration are unchanged. [40_decoder_and_step R115, R118, 10_state R17, 20_memory R51] -/
def Obligations.EveryStepMakesProgress : Prop :=
  ∀ s t : State, s.Inv → step s = .next t →
    ((t.phase = .running ∧ s.cur + 2 ≤ t.cur ∧ t.cur ≤ s.cur + 6 ∧ t.cur ≤ s.buf.len) ∨
      (t.cur = s.cur ∧ (t.phase = .done ∨ t.phase = .failed))) ∧ t.buf = s.buf ∧ t.cfg = s.cfg

/-- For every stream and cursor below N, decoding answers a record with length 2 to 6 inside the stream, or UnrecognizedOpcode with the cursor and the byte there, or TruncatedInstruction with the cursor and N - c; and the answer depends on the bytes from the cursor to N alone. [R100] -/
def Obligations.DecodeContract : Prop :=
  (∀ (m : Memory) (c : Nat), c < m.len →
      (∃ i, decodeAt m c = .ok i ∧ 2 ≤ i.record.length ∧ i.record.length ≤ 6 ∧ c + i.record.length ≤ m.len) ∨
      (∃ b, decodeAt m c = .err (.unrecognizedOpcode c b) ∧ m.read c = some b) ∨
      ∃ needed, decodeAt m c = .err (.truncatedInstruction c needed (m.len - c))) ∧
    ∀ (m m' : Memory) (c : Nat), m.len = m'.len → (∀ a, c ≤ a → m.read a = m'.read a) → decodeAt m c = decodeAt m' c

/-- Whenever decoding below N is truncated: the offset is the cursor, available is N - offset and at least 1, needed is more than available and at most 6; needed is 2 when the first byte is of class 3 or 4 and is the last; in every other case these bytes begin the encoding of some instruction, and needed is the length of every instruction whose encoding they begin; and a recognised first byte in the last position always raises it. Marked by the spec as its own decision: D12 (92_eei_decisions). [60_exceptions R242, 40_decoder_and_step R106, 92_eei_decisions D12] -/
def Obligations.TruncationIsCounted : Prop :=
  (∀ (m : Memory) (c o n a : Nat), c < m.len → decodeAt m c = .err (.truncatedInstruction o n a) →
      o = c ∧ a = m.len - c ∧ 1 ≤ a ∧ a < n ∧ n ≤ 6 ∧
        ∀ b, m.read c = some b →
          if a = 1 ∧ (field b 2 6 = 0b100000#6 ∨ (rmRegOp? (field b 2 6)).isSome = true) then n = 2
          else
            (∃ i : Instr, i.wellFormed = true ∧ m.window c Config.maxLen <+: encode i) ∧
            ∀ i : Instr, i.wellFormed = true → m.window c Config.maxLen <+: encode i → n = (encode i).length) ∧
    ∀ (m : Memory) (c : Nat) (i : Instr), i.wellFormed = true → m.len = c + 1 → m.read c = (encode i).head? →
      ∃ n, decodeAt m c = .err (.truncatedInstruction c n 1)

/-- A first byte is unrecognised with every continuation exactly when it lies in the seven listed ranges, which hold 194 values; the error carries that byte. [R85] -/
def Obligations.UnrecognisedFirstBytes : Prop :=
  (∀ b0 : Byte, (∀ rest, decodeBytes (b0 :: rest) = .unrecognizedOpcode b0) ↔ b0.toNat ∈ unrecognisedRanges) ∧
    unrecognisedRanges.length = 194

/-- For first bytes 0x80 to 0x83: with a mod byte whose bits 5:3 are none of 000, 101, 111 decoding answers UnrecognizedOpcode with the first byte, whatever follows; with no mod byte TruncatedInstruction with needed 2. Marked by the spec as its own decision: D8 (92_eei_decisions). [30_encoding R86, 92_eei_decisions D8] -/
def Obligations.ClassThreeSubOperationsOutsideTheSubset : Prop :=
  ∀ b0 ∈ ([0x80, 0x81, 0x82, 0x83] : List Byte), ∀ (m : Memory) (c : Nat),
    (∀ b1 : Byte, field b1 3 3 ∈ ([0b001, 0b010, 0b011, 0b100, 0b110] : List Reg3) →
      [b0, b1] <+: m.window c Config.maxLen → decodeAt m c = .err (.unrecognizedOpcode c b0)) ∧
    (m.window c Config.maxLen = [b0] → decodeAt m c = .err (.truncatedInstruction c 2 1))

/-- For every stream and every cursor not below N, decoding answers TruncatedInstruction{c, 1, 0}; a Running step at N never asks it, it is Done. Marked by the spec as its own decision: D25 (92_eei_decisions). [40_decoder_and_step R120, 92_eei_decisions D25] -/
def Obligations.DecodePastTheEnd : Prop :=
  (∀ (m : Memory) (c : Nat), m.len ≤ c → decodeAt m c = .err (.truncatedInstruction c 1 0)) ∧
    ∀ s : State, s.withinCap = true → s.phase = .running → s.cur = s.buf.len → step s = .next s.finish

/-- For every well-formed instruction the length is the sum of its parts, each the record's own size, and the value of the table: class 1 and 2 two or three by w, class 3 by mod, rm and sw, class 4 by mod, class 5 two. Marked by the spec as its own decision: D6 (92_eei_decisions). [30_encoding R75, 92_eei_decisions D6] -/
def Obligations.LengthIsTheSumOfItsParts : Prop :=
  ∀ i : Instr, i.wellFormed = true →
    i.record.length = 1 + (if i.record.mode.isSome then 1 else 0) + i.record.dispSize.getD 0 + i.record.immSize.getD 0 +
      (if i.record.jdisp.isSome then 1 else 0) ∧
    match i.record.classTag with
    | .immToRegMov | .immToAccArith => i.record.length = if i.record.w = some true then 3 else 2
    | .immToRmArith =>
      i.record.length =
        (if i.record.direct = some true ∨ i.record.mode = some .mem16 then 5
          else if i.record.mode = some .mem8 then 4 else 3) +
        (if i.record.s = some false ∧ i.record.w = some true then 1 else 0)
    | .rmReg =>
      i.record.length = if i.record.mode = some .mem8 then 3 else if i.record.mode = some .mem16 then 4 else 2
    | .condJump | .loop => i.record.length = 2

/-- For every well-formed instruction, the presence of w, d, s, mode, reg, rm, direct, addr, disp_size, disp, imm_size, imm and jdisp in its record is that of the table, addr when direct = 1, disp when disp_size > 0 and direct = 0, direct always 0 in class 4. Marked by the spec as its own decision: D32 (92_eei_decisions). [40_decoder_and_step R104, 92_eei_decisions D32] -/
def Obligations.RecordsCarryTheFieldsOfTheirClass : Prop :=
  ∀ i : Instr, i.wellFormed = true →
    let D := i.record
    let c3 := decide (D.classTag = .immToRmArith)
    let c4 := decide (D.classTag = .rmReg)
    let c5 := decide (D.classTag = .condJump) || decide (D.classTag = .loop)
    D.w.isSome = !c5 ∧ D.d.isSome = c4 ∧ D.s.isSome = c3 ∧ D.mode.isSome = (c3 || c4) ∧
      D.reg.isSome = (decide (D.classTag = .immToRegMov) || c4) ∧ D.rm.isSome = (c3 || c4) ∧
      D.direct.isSome = (c3 || c4) ∧ (c4 = true → D.direct = some false) ∧
      D.addr.isSome = (c3 && decide (D.direct = some true)) ∧ D.dispSize.isSome = (c3 || c4) ∧
      D.disp.isSome = (decide (0 < D.dispSize.getD 0) && decide (D.direct = some false)) ∧
      D.immSize.isSome = !(c4 || c5) ∧ D.imm.isSome = !(c4 || c5) ∧ D.jdisp.isSome = c5

/-- If decoding at c in one stream gives an instruction, decoding at c' in any stream that has the same bytes over the instruction's length gives the same instruction. [40_decoder_and_step R105, 10_state R24, 70_reset_and_hazards R282] -/
def Obligations.RecordDependsOnItsBytesAlone : Prop :=
  ∀ (m m' : Memory) (c c' : Nat) (i : Instr), decodeAt m c = .ok i →
    (∀ k, k < i.record.length → m'.read (c' + k) = m.read (c + k)) → decodeAt m' c' = .ok i

/-- The map from instructions to decoded records is one-to-one, so with encode and decode inverse the map from bytes to records is. [40_decoder_and_step R105, 48_render_syntax R226] -/
def Obligations.RecordsAreOneToOne : Prop :=
  ∀ i j : Instr, i.record = j.record → i = j

/-- For every well-formed instruction, of every family, with every operand at every value, and every bytes after it: the decoder on its encoding and those bytes answers the instruction; the encoding has the record's length. [30_encoding R60 to R75, 40_decoder_and_step R101, R107, 42, 43, 44, 45: Encoding] -/
def Obligations.DecodeOfEncodeIsTheInstruction : Prop :=
  ∀ i : Instr, i.wellFormed = true →
    (encode i).length = i.record.length ∧ ∀ rest, decodeBytes (encode i ++ rest) = .ok i

/-- If the decoder reads an instruction from some bytes, that instruction is well-formed, and its encoding is the first length bytes of them: no bit of an encoding is dropped and no two encodings give one instruction. [40_decoder_and_step R105, 30_encoding R80, R89, 48_render_syntax R226] -/
def Obligations.EncodeOfDecodeIsTheBytes : Prop :=
  ∀ (bs : List Byte) (i : Instr), decodeBytes bs = .ok i →
    i.wellFormed = true ∧ i.record.length ≤ bs.length ∧ encode i = bs.take i.record.length

/-- B9 34 12, 05 00 10, 83 7E FE 00, 81 3E E8 03 34 12, 2A 87 00 01, 72 80 and E1 FC decode to what the spec's vectors say. [95_test_vectors V1.7, V2.4, V3.17, V3.8, V4.28, V5.3, V5.18, 30_encoding R61 to R65] -/
def Obligations.WordsOfTheSpecDecode : Prop :=
  decodeBytes [0xB9#8, 0x34#8, 0x12#8] = .ok (.movReg16Imm16 1#3 0x1234#16) ∧
    decodeBytes [0x05#8, 0x00#8, 0x10#8] = .ok (.addAxImm16 0x1000#16) ∧
    decodeBytes [0x83#8, 0x7E#8, 0xFE#8, 0x00#8] = .ok (.cmpRm16Simm8 (.mem8 6#3 0xFE#8) 0#8) ∧
    decodeBytes [0x81#8, 0x3E#8, 0xE8#8, 0x03#8, 0x34#8, 0x12#8] = .ok (.cmpRm16Imm16 (.direct 1000#16) 0x1234#16) ∧
    decodeBytes [0x2A#8, 0x87#8, 0x00#8, 0x01#8] = .ok (.subReg8Rm8 (.mem16 7#3 0x0100#16) 0#3) ∧
    decodeBytes [0x72#8, 0x80#8] = .ok (.jb 0x80#8) ∧ decodeBytes [0xE1#8, 0xFC#8] = .ok (.loopz 0xFC#8)

/-- For every instruction the line is its mnemonic, one space, and more; its first character is not a semicolon, so the filter of debug lines is exact. That exactly one space follows the mnemonic on every line is marked by the spec as its own decision: D33 (92_eei_decisions). [48_render_syntax R211, R223, R224, 40_decoder_and_step R117, 92_eei_decisions D33] -/
def Obligations.InstructionLinesAreNoComments : Prop :=
  ∀ i : Instr, isDebugLine (render i.record) = false ∧ ∃ rest, render i.record = opText i.record.op ++ " " ++ rest

/-- In index order the word names are ax cx dx bx sp bp si di, the byte names al cl dl bl ah ch dh bh, the base expressions those of the table, the size words byte and word; no two register names are equal, so a register operand's text names one register and one width. The order of the names is the family's, which the spec adopts: the spec's own decision D3 for the names, D4 for the base expressions (92_eei_decisions). [10_state R11, R12, 30_encoding R79, 48_render_syntax R212, R213, R216, 92_eei_decisions D3, D4] -/
def Obligations.OperandNamesAreTheTables : Prop :=
  (List.ofFn fun k : Fin 8 => regName (BitVec.ofFin k) true) = ["ax", "cx", "dx", "bx", "sp", "bp", "si", "di"] ∧
    (List.ofFn fun k : Fin 8 => regName (BitVec.ofFin k) false) = ["al", "cl", "dl", "bl", "ah", "ch", "dh", "bh"] ∧
    (List.ofFn fun k : Fin 8 => baseText (BitVec.ofFin k)) =
      ["bx + si", "bx + di", "bp + si", "bp + di", "si", "di", "bp", "bx"] ∧
    sizeText false = "byte" ∧ sizeText true = "word" ∧
    ∀ (i j : Reg3) (w w' : Bool), regName i w = regName j w' → i = j ∧ w = w'

/-- For every base expression the memory text with displacement absent or 0 is the bracketed base; with any other 8-bit or 16-bit displacement it is the base, a plus sign and the displacement's signed decimal, so that 0x05, 0xFE (8-bit) and 0x0100 (16-bit) end in + 5, + -2 and + 256; so three encodings of one operand print alike though their lengths differ. rmText4 is the text that the class 4 rule statements tie to Render. That a negative displacement keeps the plus sign is marked by the spec as its own decision: D10 (92_eei_decisions). [48_render_syntax R213, R226, 30_encoding R70, 92_eei_decisions D10] -/
def Obligations.ZeroDisplacementIsElided : Prop :=
  ∀ rm : Reg3,
    rmText4 true (.mem8 rm 0#8) = rmText4 true (.mem0 rm) ∧ rmText4 true (.mem16 rm 0#16) = rmText4 true (.mem0 rm) ∧
    (∀ d : Byte, d ≠ 0#8 → rmText4 true (.mem8 rm d) = "[" ++ baseText rm ++ " + " ++ dec (signed8 d) ++ "]") ∧
    (∀ d : Word, d ≠ 0#16 → rmText4 true (.mem16 rm d) = "[" ++ baseText rm ++ " + " ++ dec (signed16 d) ++ "]") ∧
    rmText4 true (.mem8 rm 0x05#8) = "[" ++ baseText rm ++ " + 5]" ∧
    rmText4 true (.mem8 rm 0xFE#8) = "[" ++ baseText rm ++ " + -2]" ∧
    rmText4 true (.mem16 rm 0x0100#16) = "[" ++ baseText rm ++ " + 256]" ∧
    (RmOperand.mem0 rm).dispSize = 0 ∧ (RmOperand.mem8 rm 0#8).dispSize = 1 ∧ (RmOperand.mem16 rm 0#16).dispSize = 2

/-- For two states alike but for CFG.DEBUG, what the free lines are drawn from and the debug lines already printed, steps stop alike, and next states are alike in the same way; the added debug lines begin with a semicolon, whatever the free values are. [40_decoder_and_step R117, R119, 48_render_syntax R224, 92_eei_decisions D17] -/
def Obligations.DebugLinesChangeNothingElse : Prop :=
  ∀ (s u : State), Undebugged s u →
    (∀ t, step s = .next t → ∃ v, step u = .next v ∧ Undebugged t v) ∧
    (∀ f, step s = .fault f → step u = .fault f) ∧ ∀ q, step s = .refused q → step u = .refused q

/-- For every step to a next state: the old output is a prefix of the new; if the phase was and stays Running the instruction lines gain exactly one, else the output is unchanged; with DEBUG = 0 that one line is all. That a step into Done or Failed prints nothing with DEBUG = 1 either is the model's choice, an unsafe one (log entry 4). [10_state R20, 48_render_syntax R210, R211, 40_decoder_and_step R110] -/
def Obligations.OutputGrowsOneLineAStep : Prop :=
  ∀ s t : State, step s = .next t →
    s.out <+: t.out ∧
    (t.phase = .running → ∃ line, instrLines t.out = instrLines s.out ++ [line] ∧
      (s.cfg.debug = false → t.out = s.out ++ [line])) ∧
    (t.phase ≠ .running → t.out = s.out)

/-- For every state that meets the invariant, if step answers a next state it meets the invariant: the stream stays canonical and within the cap, CUR is at most N, Done means CUR = N and no error, Failed means the latched error is what decoding at CUR answers and names CUR, ERR is None otherwise. [10_state R17, R18, R19, R20, R24, 40_decoder_and_step R110, R115, 60_exceptions R246] -/
def Obligations.EveryStepKeepsTheInvariant : Prop :=
  ∀ s t : State, s.Inv → step s = .next t → t.Inv

/-- For every state whose output, registers and cursor are those of a linear scan of the stream up to CUR, every next state is such a state again: the instructions before the cursor were each decoded once, printed once, applied once, in stream order, and nothing else was. [40_decoder_and_step R113, R116, 60_exceptions R247, 20_memory R48] -/
def Obligations.EveryStepKeepsTheLinearScan : Prop :=
  ∀ s t : State, s.Swept → step s = .next t → t.Swept

/-- For every state, a next state has the same stream, byte for byte, the same N and the same configuration; in particular arith, which reset and every start of a pass leave as it was, is kept. That P_ACC_APPLY is carried in the configuration is log entry 7. [10_state R21, 20_memory R46, R51, 70_reset_and_hazards R283] -/
def Obligations.ConfigurationAndStreamAreConstant : Prop :=
  (∀ s t : State, step s = .next t →
      (∀ a, t.buf.read a = s.buf.read a) ∧ t.buf.len = s.buf.len ∧ t.buf = s.buf ∧ t.cfg = s.cfg) ∧
    (∀ s : State, s.hostReset.cfg = s.cfg) ∧
    (∀ (s : State) (cap : Option Nat) (debug : Bool) (bytes : List Byte),
      (s.startPass cap debug bytes).cfg.accApply = s.cfg.accApply) ∧ State.reset.cfg.accApply = .arith

/-- For every Running state within the cap with CUR at most N, running at most (N - CUR) / 2 + 1 steps reaches a state whose phase is Done or Failed, with no fault and no refusal; from the start of a pass over N bytes that is floor(N / 2) + 1 steps, from any earlier state. [R111] -/
def Obligations.PassEndsWithinHalfTheStream : Prop :=
  (∀ s : State, s.withinCap = true → s.phase = .running → s.cur ≤ s.buf.len →
      ∃ t, runPass ((s.buf.len - s.cur) / 2 + 1) s = .next t ∧ t.phase ≠ .running) ∧
    ∀ (s : State) (debug : Bool) (bytes : List Byte),
      ∃ t, runPass (bytes.length / 2 + 1) (s.startPass none debug bytes) = .next t ∧ t.phase ≠ .running

/-- For every stream within the cap, any earlier state and any number of steps of the pass: if it is Done, CUR = N, ERR is None and a list of instructions tiles the whole stream, its lines after the header are the output, applied in order to zero registers they give REG; if it is Failed, the same holds of the bytes before CUR, ERR names CUR and is what decoding there answers; Done and Failed are final. The empty stream is Done at the first step with the header alone and zero registers. Marked by the spec as its own decision: D15, D24, D34 (92_eei_decisions). [40_decoder_and_step R113, 92_eei_decisions D15, D24, D34] -/
def Obligations.EndOfAPassMeansWhatItSays : Prop :=
  (∀ (s t : State) (cap : Option Nat) (debug : Bool) (bytes : List Byte) (n : Nat),
      (∀ c, cap = some c → bytes.length ≤ c) → runPass n (s.startPass cap debug bytes) = .next t → t.phase ≠ .running →
      ∃ is, sweepEnd (Memory.ofBytes bytes) 0 is = some t.cur ∧
        instrLines t.out = ["bits 16", ""] ++ is.map (fun i => render i.record) ∧
        (debug = false → t.out = ["bits 16", ""] ++ is.map (fun i => render i.record)) ∧
        t.regs = regsAfter s.cfg.accApply is ∧
        (t.phase = .done → t.cur = bytes.length ∧ t.err = none) ∧
        (t.phase = .failed → ∃ e, t.err = some e ∧ e.offset = some t.cur ∧
          decodeAt (Memory.ofBytes bytes) t.cur = .err e) ∧
        ∀ u, step t ≠ .next u) ∧
    ∀ (s : State) (debug : Bool), ∃ t, step (s.startPass none debug []) = .next t ∧ t.phase = .done ∧
      t.out = ["bits 16", ""] ∧ t.cur = 0 ∧ ∀ i, readWord t.regs i = 0#16
end

