-- ==== Sys2Proof/Laws/Memory.lean ====
section
/-! SUPPORT. The byte stream: every operation keeps the canonical form, read after write, and the decoder's window. -/

namespace Sys2Proof.Machine

/-- Raising the lower bound's demand: a list canonical from `lo` on is canonical from any smaller bound on. -/
theorem cellsWf_mono {lo lo' hi hi' : Nat} (hl : lo' ≤ lo) (hh : hi ≤ hi') :
    ∀ {cs : List Host.Cell}, cellsWf lo hi cs = true → cellsWf lo' hi' cs = true
  | [], _ => rfl
  | (a, b) :: rest, h => by
    simp only [cellsWf, Bool.and_eq_true, decide_eq_true_eq] at h ⊢
    exact ⟨⟨⟨by omega, by omega⟩, h.1.2⟩, cellsWf_mono (Nat.le_refl _) hh h.2⟩

theorem cellsSet_wf {lo hi a : Nat} {b : Byte} (hlo : lo ≤ a) (hhi : a < hi) :
    ∀ {cs : List Host.Cell}, cellsWf lo hi cs = true → cellsWf lo hi (cellsSet cs a b) = true
  | [], _ => by
    by_cases hb : b = Memory.unlisted <;> simp [cellsSet, cellsWf, hb, hlo, hhi]
  | (a', b') :: rest, h => by
    have h' := h
    simp only [cellsWf, Bool.and_eq_true, decide_eq_true_eq] at h
    obtain ⟨⟨⟨h1, h2⟩, h3⟩, h4⟩ := h
    unfold cellsSet
    split
    · split
      · exact h'
      · simp only [cellsWf, Bool.and_eq_true, decide_eq_true_eq]
        exact ⟨⟨⟨hlo, hhi⟩, ‹_›⟩, ⟨⟨⟨by omega, h2⟩, h3⟩, h4⟩⟩
    · split
      · subst a'
        split
        · exact cellsWf_mono (by omega) (Nat.le_refl _) h4
        · simp only [cellsWf, Bool.and_eq_true, decide_eq_true_eq]
          exact ⟨⟨⟨hlo, hhi⟩, ‹_›⟩, h4⟩
      · simp only [cellsWf, Bool.and_eq_true, decide_eq_true_eq]
        exact ⟨⟨⟨h1, h2⟩, h3⟩, cellsSet_wf (by omega) hhi h4⟩

theorem cellsGet_below {lo hi a : Nat} (ha : a < lo) :
    ∀ {cs : List Host.Cell}, cellsWf lo hi cs = true → cellsGet cs a = Memory.unlisted
  | [], _ => rfl
  | (a', b') :: rest, h => by
    simp only [cellsWf, Bool.and_eq_true, decide_eq_true_eq] at h
    rw [cellsGet, if_neg (by omega)]
    exact cellsGet_below (by omega) h.2

theorem cellsGet_cellsSet_same {lo hi a : Nat} {b : Byte} :
    ∀ {cs : List Host.Cell}, cellsWf lo hi cs = true → cellsGet (cellsSet cs a b) a = b
  | [], _ => by
    by_cases hb : b = Memory.unlisted <;> simp [cellsSet, cellsGet, hb]
  | (a', b') :: rest, h => by
    simp only [cellsWf, Bool.and_eq_true, decide_eq_true_eq] at h
    unfold cellsSet
    split
    · split
      · rw [cellsGet, if_neg (by omega), cellsGet_below (lo := a' + 1) (by omega) h.2]; exact Eq.symm ‹_›
      · simp [cellsGet]
    · split
      · split
        · rw [cellsGet_below (lo := a' + 1) (by omega) h.2]; exact Eq.symm ‹_›
        · simp [cellsGet]
      · rw [cellsGet, if_neg ‹_›]
        exact cellsGet_cellsSet_same h.2

theorem cellsGet_cellsSet_other {a c : Nat} {b : Byte} (hc : c ≠ a) :
    ∀ {cs : List Host.Cell}, cellsGet (cellsSet cs a b) c = cellsGet cs c
  | [] => by
    by_cases hb : b = Memory.unlisted <;> simp [cellsSet, cellsGet, hb, Ne.symm hc]
  | (a', b') :: rest => by
    unfold cellsSet
    split
    · split
      · rfl
      · rw [cellsGet, if_neg (Ne.symm hc)]
    · split
      · subst a'
        split
        · rw [cellsGet, if_neg (Ne.symm hc)]
        · rw [cellsGet, if_neg (Ne.symm hc), cellsGet, if_neg (Ne.symm hc)]
      · simp only [cellsGet]
        rw [cellsGet_cellsSet_other hc]

@[simp] theorem write_len (m : Memory) (a : Nat) (b : Byte) : (m.write a b).len = m.len := by
  unfold Memory.write; split <;> rfl

@[simp] theorem grow_len (m : Memory) (n : Nat) : (m.grow n).len = max m.len n := rfl

@[simp] theorem writeBytes_len : ∀ (bs : List Byte) (m : Memory) (a : Nat), (m.writeBytes a bs).len = m.len
  | [], _, _ => rfl
  | b :: rest, m, a => by rw [Memory.writeBytes, writeBytes_len rest, write_len]

theorem write_wf {m : Memory} (a : Nat) (b : Byte) (h : m.wf = true) : (m.write a b).wf = true := by
  unfold Memory.write
  split
  · exact cellsSet_wf (Nat.zero_le _) ‹_› h
  · exact h

theorem grow_wf {m : Memory} (n : Nat) (h : m.wf = true) : (m.grow n).wf = true :=
  cellsWf_mono (Nat.le_refl _) (Nat.le_max_left _ _) h

theorem writeBytes_wf : ∀ (bs : List Byte) {m : Memory} (a : Nat), m.wf = true → (m.writeBytes a bs).wf = true
  | [], _, _, h => h
  | b :: rest, _, a, h => writeBytes_wf rest (a + 1) (write_wf a b h)

theorem ofBytes_wf (bs : List Byte) : (Memory.ofBytes bs).wf = true := writeBytes_wf bs 0 rfl

@[simp] theorem ofBytes_len (bs : List Byte) : (Memory.ofBytes bs).len = bs.length := by simp [Memory.ofBytes]

/-- Reading back a written byte. -/
theorem read_write_same {m : Memory} {a : Nat} (b : Byte) (h : m.wf = true) (ha : a < m.len) :
    (m.write a b).read a = some b := by
  have : cellsGet (cellsSet m.cells a b) a = b := cellsGet_cellsSet_same h
  simp [Memory.read, Memory.write, ha, this]

/-- A write leaves every other index alone. -/
theorem read_write_other (m : Memory) {a c : Nat} (b : Byte) (hc : c ≠ a) : (m.write a b).read c = m.read c := by
  unfold Memory.read Memory.write
  split
  · simp [cellsGet_cellsSet_other hc]
  · rfl

/-- Bytes written from `a` on leave every index below `a` alone. -/
theorem read_writeBytes_below : ∀ (bs : List Byte) (m : Memory) {a c : Nat}, c < a →
    (m.writeBytes a bs).read c = m.read c
  | [], _, _, _, _ => rfl
  | b :: rest, m, a, c, h => by
    rw [Memory.writeBytes, read_writeBytes_below rest _ (by omega), read_write_other m b (by omega)]

/-- Bytes written from `a` on are read back in order. -/
theorem read_writeBytes : ∀ (bs : List Byte) {m : Memory} {a : Nat} (k : Nat) (hk : k < bs.length), m.wf = true →
    a + bs.length ≤ m.len → (m.writeBytes a bs).read (a + k) = some bs[k]
  | b :: rest, m, a, 0, _, h, hl => by
    show ((m.write a b).writeBytes (a + 1) rest).read a = some b
    rw [read_writeBytes_below rest _ (by omega), read_write_same b h (by simp only [List.length_cons] at hl; omega)]
  | b :: rest, m, a, k + 1, hk, h, hl => by
    simp only [List.length_cons] at hk hl
    rw [Memory.writeBytes, show a + (k + 1) = (a + 1) + k by omega,
      read_writeBytes rest k (by omega) (write_wf a b h) (by rw [write_len]; omega)]
    rfl

/-- The stream presented is the stream read (R25, R40). -/
theorem read_ofBytes (bs : List Byte) (k : Nat) (hk : k < bs.length) : (Memory.ofBytes bs).read k = some bs[k] := by
  have := read_writeBytes bs (m := { cells := [], len := bs.length }) (a := 0) k hk rfl (by simp)
  rwa [Nat.zero_add] at this

theorem read_eq_some {m : Memory} {a : Nat} (h : a < m.len) : m.read a = some (cellsGet m.cells a) := by
  simp [Memory.read, h]

theorem read_eq_none {m : Memory} {a : Nat} (h : m.len ≤ a) : m.read a = none := by
  simp [Memory.read, Nat.not_lt.2 h]

/-- The decoder's window is as long as asked for, or as the stream has bytes left. -/
theorem window_length (m : Memory) : ∀ (n a : Nat), (m.window a n).length = min n (m.len - a)
  | 0, _ => by simp [Memory.window]
  | n + 1, a => by
    by_cases h : a < m.len
    · simp [Memory.window, read_eq_some h, window_length m n (a + 1)]; omega
    · simp [Memory.window, read_eq_none (Nat.le_of_not_lt h)]; omega

/-- The stream as a list has `N` bytes. -/
@[simp] theorem bytes_length (m : Memory) : m.bytes.length = m.len := by simp [Memory.bytes, window_length]

/-- The state after reset holds the canonical stream that lists nothing. -/
theorem reset_buf_wf : State.reset.buf.wf = true := rfl

/-- Placing an instruction keeps the canonical form. -/
theorem withFetchWord_buf_wf {s : State} (nbits w : Nat) (h : s.buf.wf = true) : (s.withFetchWord nbits w).buf.wf = true := by
  unfold State.withFetchWord
  generalize tableBytes nbits w = bs
  exact writeBytes_wf bs s.cur (grow_wf (s.cur + Config.maxLen) h)

/-- Starting a pass leaves a canonical stream, whatever was there before. -/
theorem startPass_buf_wf (s : State) (cap : Option Nat) (debug : Bool) (bytes : List Byte) :
    (s.startPass cap debug bytes).buf.wf = true := ofBytes_wf bytes

end Sys2Proof.Machine
end

