-- ==== Sys2Proof/Laws/Regs.lean ====
section
/-! SUPPORT. The register file's two views: read after write, and what a write leaves alone (10_state R13, R14). -/

namespace Sys2Proof

theorem getLsbD_mkWord (hi lo : Byte) (i : Nat) :
    (mkWord hi lo).getLsbD i = if i < 8 then lo.getLsbD i else hi.getLsbD (i - 8) := BitVec.getLsbD_append

theorem getLsbD_loByte (v : Word) (i : Nat) : (loByte v).getLsbD i = (decide (i < 8) && v.getLsbD i) := by
  simp [loByte]

theorem getLsbD_hiByte (v : Word) (i : Nat) : (hiByte v).getLsbD i = (decide (i < 8) && v.getLsbD (8 + i)) := by
  simp [hiByte]

@[simp] theorem loByte_mkWord (hi lo : Byte) : loByte (mkWord hi lo) = lo :=
  BitVec.eq_of_getLsbD_eq fun i h => by
    rw [getLsbD_loByte, getLsbD_mkWord, if_pos h, decide_eq_true h, Bool.true_and]

@[simp] theorem hiByte_mkWord (hi lo : Byte) : hiByte (mkWord hi lo) = hi :=
  BitVec.eq_of_getLsbD_eq fun i h => by
    rw [getLsbD_hiByte, getLsbD_mkWord, if_neg (by omega), decide_eq_true h, Bool.true_and, Nat.add_sub_cancel_left]

@[simp] theorem mkWord_hi_lo (v : Word) : mkWord (hiByte v) (loByte v) = v :=
  BitVec.eq_of_getLsbD_eq fun i h => by
    rw [getLsbD_mkWord]
    split
    · rw [getLsbD_loByte, decide_eq_true ‹_›, Bool.true_and]
    · rw [getLsbD_hiByte, decide_eq_true (by omega), Bool.true_and, show 8 + (i - 8) = i by omega]

@[simp] theorem loByte_zext16 (b : Byte) : loByte (zext16 b) = b :=
  BitVec.eq_of_getLsbD_eq fun i h => by
    rw [getLsbD_loByte, decide_eq_true h, Bool.true_and, zext16, BitVec.getLsbD_setWidth, decide_eq_true (by omega),
      Bool.true_and]

end Sys2Proof

namespace Sys2Proof.Machine

@[simp] theorem readWord_writeWord_same (r : Regs) (i : Reg3) (v : Word) : readWord (writeWord r i v) i = v := by
  simp [readWord, writeWord]

theorem readWord_writeWord_other (r : Regs) {i j : Reg3} (v : Word) (h : j ≠ i) :
    readWord (writeWord r i v) j = readWord r j := by
  have : i.toNat ≠ j.toNat := fun e => h (BitVec.eq_of_toNat_eq e.symm)
  simp [readWord, writeWord, this]

theorem readByte_lo (r : Regs) {k : Reg3} (h : k.toNat < Config.nhalf) : readByte r k = loByte (readWord r k) := by
  simp [readByte, h]

theorem readByte_hi (r : Regs) {k : Reg3} (h : ¬ k.toNat < Config.nhalf) :
    readByte r k = hiByte (readWord r (k - 4#3)) := by
  simp [readByte, h]

theorem writeByte_lo (r : Regs) {k : Reg3} (v : Byte) (h : k.toNat < Config.nhalf) :
    writeByte r k v = writeWord r k (mkWord (hiByte (readWord r k)) v) := by
  simp [writeByte, h]

theorem writeByte_hi (r : Regs) {k : Reg3} (v : Byte) (h : ¬ k.toNat < Config.nhalf) :
    writeByte r k v = writeWord r (k - 4#3) (mkWord v (loByte (readWord r (k - 4#3)))) := by
  simp [writeByte, h]

/-- Two register files with the same eight words are equal. -/
theorem regs_ext {r r' : Regs} (h : ∀ i : Reg3, readWord r i = readWord r' i) : r = r' := by
  apply Vector.ext
  intro n hn
  exact h (BitVec.ofFin ⟨n, hn⟩)

/-- An accessor answers the view inside 0..7 and the error outside it. -/
theorem getWord_cases (r : Regs) (n : Nat) :
    (n < Config.nreg ∧ getWord r n = .value (readWord r (BitVec.ofNat 3 n))) ∨
      (¬ n < Config.nreg ∧ getWord r n = .error .registerIndexOutOfRange) := by
  unfold getWord; split <;> simp_all

end Sys2Proof.Machine
end

