-- ==== Sys2Proof/Laws/State.lean ====
section
/-! SUPPORT. One lemma per field per update of the state, all by `rfl`. -/

namespace Sys2Proof.Machine

@[simp] theorem retire_regs (D : Record) (s : State) : (retire D s).regs = s.regs := rfl
@[simp] theorem retire_cur (D : Record) (s : State) : (retire D s).cur = s.cur + D.length := rfl
@[simp] theorem retire_phase (D : Record) (s : State) : (retire D s).phase = s.phase := rfl
@[simp] theorem retire_err (D : Record) (s : State) : (retire D s).err = s.err := rfl
@[simp] theorem retire_out (D : Record) (s : State) : (retire D s).out = s.out ++ (s.debugBefore ++ render D :: s.debugAfter) := rfl
@[simp] theorem retire_cfg (D : Record) (s : State) : (retire D s).cfg = s.cfg := rfl
@[simp] theorem retire_buf (D : Record) (s : State) : (retire D s).buf = s.buf := rfl
@[simp] theorem retire_debugSource (D : Record) (s : State) : (retire D s).debugSource = (if s.cfg.debug then Config.nextDebugSource s.debugSource else s.debugSource) := rfl

@[simp] theorem setRegs_regs (s : State) (r : Regs) : (s.setRegs r).regs = r := rfl
@[simp] theorem setRegs_cur (s : State) (r : Regs) : (s.setRegs r).cur = s.cur := rfl
@[simp] theorem setRegs_phase (s : State) (r : Regs) : (s.setRegs r).phase = s.phase := rfl
@[simp] theorem setRegs_err (s : State) (r : Regs) : (s.setRegs r).err = s.err := rfl
@[simp] theorem setRegs_out (s : State) (r : Regs) : (s.setRegs r).out = s.out := rfl
@[simp] theorem setRegs_cfg (s : State) (r : Regs) : (s.setRegs r).cfg = s.cfg := rfl
@[simp] theorem setRegs_buf (s : State) (r : Regs) : (s.setRegs r).buf = s.buf := rfl
@[simp] theorem setRegs_debugSource (s : State) (r : Regs) : (s.setRegs r).debugSource = s.debugSource := rfl

@[simp] theorem raiseError_regs (s : State) (e : ErrorRecord) : (s.raiseError e).regs = s.regs := rfl
@[simp] theorem raiseError_cur (s : State) (e : ErrorRecord) : (s.raiseError e).cur = s.cur := rfl
@[simp] theorem raiseError_phase (s : State) (e : ErrorRecord) : (s.raiseError e).phase = .failed := rfl
@[simp] theorem raiseError_err (s : State) (e : ErrorRecord) : (s.raiseError e).err = some e := rfl
@[simp] theorem raiseError_out (s : State) (e : ErrorRecord) : (s.raiseError e).out = s.out := rfl
@[simp] theorem raiseError_cfg (s : State) (e : ErrorRecord) : (s.raiseError e).cfg = s.cfg := rfl
@[simp] theorem raiseError_buf (s : State) (e : ErrorRecord) : (s.raiseError e).buf = s.buf := rfl
@[simp] theorem raiseError_debugSource (s : State) (e : ErrorRecord) : (s.raiseError e).debugSource = s.debugSource := rfl

@[simp] theorem finish_regs (s : State) : (s.finish).regs = s.regs := rfl
@[simp] theorem finish_cur (s : State) : (s.finish).cur = s.cur := rfl
@[simp] theorem finish_phase (s : State) : (s.finish).phase = .done := rfl
@[simp] theorem finish_err (s : State) : (s.finish).err = s.err := rfl
@[simp] theorem finish_out (s : State) : (s.finish).out = s.out := rfl
@[simp] theorem finish_cfg (s : State) : (s.finish).cfg = s.cfg := rfl
@[simp] theorem finish_buf (s : State) : (s.finish).buf = s.buf := rfl
@[simp] theorem finish_debugSource (s : State) : (s.finish).debugSource = s.debugSource := rfl

@[simp] theorem hostReset_regs (s : State) : (s.hostReset).regs = Vector.replicate 8 0#16 := rfl
@[simp] theorem hostReset_cur (s : State) : (s.hostReset).cur = 0 := rfl
@[simp] theorem hostReset_phase (s : State) : (s.hostReset).phase = .running := rfl
@[simp] theorem hostReset_err (s : State) : (s.hostReset).err = none := rfl
@[simp] theorem hostReset_out (s : State) : (s.hostReset).out = header := rfl
@[simp] theorem hostReset_cfg (s : State) : (s.hostReset).cfg = s.cfg := rfl
@[simp] theorem hostReset_buf (s : State) : (s.hostReset).buf = s.buf := rfl
@[simp] theorem hostReset_debugSource (s : State) : (s.hostReset).debugSource = s.debugSource := rfl

end Sys2Proof.Machine
end

