-- ==== Sys2Proof/Laws/Ops.lean ====
section
/-! SUPPORT. One lemma per shared operation that says everything it can do; the proofs cite these and do not unfold the
operations again. -/

namespace Sys2Proof.Machine

@[simp] theorem instrLines_nil : instrLines [] = [] := rfl

@[simp] theorem instrLines_append (a b : List Text) : instrLines (a ++ b) = instrLines a ++ instrLines b :=
  List.filter_append ..

theorem instrLines_cons_of_not_debug {t : Text} (h : isDebugLine t = false) (rest : List Text) :
    instrLines (t :: rest) = t :: instrLines rest := by simp [instrLines, h]

theorem isDebugLine_debugLine (t : Text) : isDebugLine (debugLine t) = true := by
  simp [isDebugLine, debugLine, String.toList_append]

/-- Debug lines are no instruction lines, whatever the free values are. -/
theorem instrLines_map_debugLine (ts : List Text) : instrLines (ts.map debugLine) = [] := by
  simp [instrLines, isDebugLine_debugLine]

@[simp] theorem instrLines_debugBefore (s : State) : instrLines s.debugBefore = [] := by
  unfold State.debugBefore; split
  · exact instrLines_map_debugLine _
  · rfl

@[simp] theorem instrLines_debugAfter (s : State) : instrLines s.debugAfter = [] := by
  unfold State.debugAfter; split
  · exact instrLines_map_debugLine _
  · rfl

/-- Everything retiring a record does, for a record whose line is no debug line. -/
theorem retire_retired (D : Record) (s : State) (h : isDebugLine (render D) = false) :
    Retired s (retire D s) D.length (render D) s.regs := by
  refine ⟨rfl, rfl, ⟨_, rfl⟩, ?_, ?_, rfl, rfl, rfl, rfl⟩
  · simp [instrLines_cons_of_not_debug h]
  · intro hd; simp [State.debugBefore, State.debugAfter, hd]

/-- A state that differs from a retired one in its registers alone. -/
theorem Retired.setRegs {s t : State} {n : Nat} {line : Text} {r : Regs} (h : Retired s t n line r) (r' : Regs) :
    Retired s (t.setRegs r') n line r' :=
  ⟨h.1, rfl, h.2.2⟩

theorem applyMov8_eq (reg : Reg3) (imm : Byte) (s : State) : applyMov8 reg imm s = s.setRegs (writeByte s.regs reg imm) := rfl

theorem applyMov16_eq (reg : Reg3) (imm : Word) (s : State) : applyMov16 reg imm s = s.setRegs (writeWord s.regs reg imm) :=
  rfl

/-- Class 2 `Apply` on `al`, the register file it leaves written out. -/
theorem applyAcc8_eq (op : ArithOp) (imm : Byte) (s : State) :
    applyAcc8 op imm s = s.setRegs (match accResult s.cfg.accApply op (readByte s.regs 0#3) imm with
      | some v => writeByte s.regs 0#3 v
      | none => s.regs) := by
  unfold applyAcc8; cases accResult s.cfg.accApply op (readByte s.regs 0#3) imm <;> rfl

/-- Class 2 `Apply` on `ax`, the register file it leaves written out. -/
theorem applyAcc16_eq (op : ArithOp) (imm : Word) (s : State) :
    applyAcc16 op imm s = s.setRegs (match accResult s.cfg.accApply op (readWord s.regs 0#3) imm with
      | some v => writeWord s.regs 0#3 v
      | none => s.regs) := by
  unfold applyAcc16; cases accResult s.cfg.accApply op (readWord s.regs 0#3) imm <;> rfl

/-- What decoding at a cursor answers, from what decoding its window answers. -/
theorem decodeAt_cases (m : Memory) (c : Nat) :
    (∃ i, decodeBytes (m.window c Config.maxLen) = .ok i ∧ decodeAt m c = .ok i) ∨
      (∃ b, decodeBytes (m.window c Config.maxLen) = .unrecognizedOpcode b ∧
        decodeAt m c = .err (.unrecognizedOpcode c b)) ∨
      (∃ n, decodeBytes (m.window c Config.maxLen) = .truncatedInstruction n ∧
        decodeAt m c = .err (.truncatedInstruction c n (m.len - c))) := by
  unfold decodeAt; split <;> simp_all

/-- Everything a step can answer, once (R110). -/
theorem step_cases {s t : State} (h : step s = .next t) :
    s.withinCap = true ∧ s.phase = .running ∧
      ((s.cur = s.buf.len ∧ t = s.finish) ∨
        (s.cur ≠ s.buf.len ∧ ∃ e, decodeAt s.buf s.cur = .err e ∧ t = s.raiseError e) ∨
        (s.cur ≠ s.buf.len ∧ ∃ i, decodeAt s.buf s.cur = .ok i ∧ exec i s = .next t)) := by
  unfold step at h
  split at h
  · split at h
    · cases h
    · cases h
    · refine ⟨‹_›, ‹_›, ?_⟩
      split at h
      · cases h; exact .inl ⟨‹_›, rfl⟩
      · split at h
        · exact .inr (.inr ⟨‹_›, _, ‹_›, h⟩)
        · cases h; exact .inr (.inl ⟨‹_›, _, ‹_›, rfl⟩)
  · cases h

end Sys2Proof.Machine
end

