-- ==== Sys2Proof/Laws/PerInstr.lean ====
section
/-! SUPPORT. Statements about every instruction, one lemma per constructor. -/

namespace Sys2Proof.Laws.EncodedLength

/-- The encoding has exactly the record's length, and that is 2 to 6 bytes (R60, R105). -/
def Statement (i : Instr) : Prop :=
  (encode i).length = i.record.length ∧ 2 ≤ i.record.length ∧ i.record.length ≤ 6

theorem operand_encode_length (mid : Reg3) (rm : RmOperand) : (rm.encode mid).length = 1 + rm.dispSize := by
  cases rm <;> rfl

theorem dispSize_le_two (rm : RmOperand) : rm.dispSize ≤ 2 := by
  cases rm <;> simp [RmOperand.dispSize]

/-- Class 3: first byte, operand, `n` immediate bytes. -/
theorem of_class3 {op : Op} {s w : Bool} {rm : RmOperand} {n : Nat} {v : Word} {b : Byte} {mid : Reg3} {tail : List Byte}
    (hn : tail.length = n) (h1 : 1 ≤ n) (h2 : n ≤ 2) :
    (b :: (rm.encode mid ++ tail)).length = (recArithImmRm op s w rm n v).length ∧
      2 ≤ (recArithImmRm op s w rm n v).length ∧ (recArithImmRm op s w rm n v).length ≤ 6 := by
  have := dispSize_le_two rm
  simp only [List.length_cons, List.length_append, operand_encode_length, recArithImmRm, hn]
  omega

/-- Class 4: first byte and operand. -/
theorem of_class4 {op : Op} {d w : Bool} {rm : RmOperand} {reg : Reg3} {b : Byte} :
    (b :: rm.encode reg).length = (recRmReg op d w rm reg).length ∧
      2 ≤ (recRmReg op d w rm reg).length ∧ (recRmReg op d w rm reg).length ≤ 6 := by
  have := dispSize_le_two rm
  simp only [List.length_cons, operand_encode_length, recRmReg]
  omega

theorem movReg8Imm8 (reg : Reg3) (imm : Byte) : Statement (.movReg8Imm8 reg imm) := ⟨rfl, Nat.le_of_ble_eq_true rfl, Nat.le_of_ble_eq_true rfl⟩

theorem movReg16Imm16 (reg : Reg3) (imm : Word) : Statement (.movReg16Imm16 reg imm) := ⟨rfl, Nat.le_of_ble_eq_true rfl, Nat.le_of_ble_eq_true rfl⟩

theorem addAlImm8 (imm : Byte) : Statement (.addAlImm8 imm) := ⟨rfl, Nat.le_of_ble_eq_true rfl, Nat.le_of_ble_eq_true rfl⟩

theorem addAxImm16 (imm : Word) : Statement (.addAxImm16 imm) := ⟨rfl, Nat.le_of_ble_eq_true rfl, Nat.le_of_ble_eq_true rfl⟩

theorem subAlImm8 (imm : Byte) : Statement (.subAlImm8 imm) := ⟨rfl, Nat.le_of_ble_eq_true rfl, Nat.le_of_ble_eq_true rfl⟩

theorem subAxImm16 (imm : Word) : Statement (.subAxImm16 imm) := ⟨rfl, Nat.le_of_ble_eq_true rfl, Nat.le_of_ble_eq_true rfl⟩

theorem cmpAlImm8 (imm : Byte) : Statement (.cmpAlImm8 imm) := ⟨rfl, Nat.le_of_ble_eq_true rfl, Nat.le_of_ble_eq_true rfl⟩

theorem cmpAxImm16 (imm : Word) : Statement (.cmpAxImm16 imm) := ⟨rfl, Nat.le_of_ble_eq_true rfl, Nat.le_of_ble_eq_true rfl⟩

theorem addRm8Imm8 (rm : RmOperand) (imm : Byte) : Statement (.addRm8Imm8 rm imm) := of_class3 rfl (by decide) (by decide)

theorem addRm16Imm16 (rm : RmOperand) (imm : Word) : Statement (.addRm16Imm16 rm imm) := of_class3 rfl (by decide) (by decide)

theorem addRm8Imm8S (rm : RmOperand) (imm : Byte) : Statement (.addRm8Imm8S rm imm) := of_class3 rfl (by decide) (by decide)

theorem addRm16Simm8 (rm : RmOperand) (imm : Byte) : Statement (.addRm16Simm8 rm imm) := of_class3 rfl (by decide) (by decide)

theorem subRm8Imm8 (rm : RmOperand) (imm : Byte) : Statement (.subRm8Imm8 rm imm) := of_class3 rfl (by decide) (by decide)

theorem subRm16Imm16 (rm : RmOperand) (imm : Word) : Statement (.subRm16Imm16 rm imm) := of_class3 rfl (by decide) (by decide)

theorem subRm8Imm8S (rm : RmOperand) (imm : Byte) : Statement (.subRm8Imm8S rm imm) := of_class3 rfl (by decide) (by decide)

theorem subRm16Simm8 (rm : RmOperand) (imm : Byte) : Statement (.subRm16Simm8 rm imm) := of_class3 rfl (by decide) (by decide)

theorem cmpRm8Imm8 (rm : RmOperand) (imm : Byte) : Statement (.cmpRm8Imm8 rm imm) := of_class3 rfl (by decide) (by decide)

theorem cmpRm16Imm16 (rm : RmOperand) (imm : Word) : Statement (.cmpRm16Imm16 rm imm) := of_class3 rfl (by decide) (by decide)

theorem cmpRm8Imm8S (rm : RmOperand) (imm : Byte) : Statement (.cmpRm8Imm8S rm imm) := of_class3 rfl (by decide) (by decide)

theorem cmpRm16Simm8 (rm : RmOperand) (imm : Byte) : Statement (.cmpRm16Simm8 rm imm) := of_class3 rfl (by decide) (by decide)

theorem movRm8Reg8 (rm : RmOperand) (reg : Reg3) : Statement (.movRm8Reg8 rm reg) := of_class4

theorem movRm16Reg16 (rm : RmOperand) (reg : Reg3) : Statement (.movRm16Reg16 rm reg) := of_class4

theorem movReg8Rm8 (rm : RmOperand) (reg : Reg3) : Statement (.movReg8Rm8 rm reg) := of_class4

theorem movReg16Rm16 (rm : RmOperand) (reg : Reg3) : Statement (.movReg16Rm16 rm reg) := of_class4

theorem addRm8Reg8 (rm : RmOperand) (reg : Reg3) : Statement (.addRm8Reg8 rm reg) := of_class4

theorem addRm16Reg16 (rm : RmOperand) (reg : Reg3) : Statement (.addRm16Reg16 rm reg) := of_class4

theorem addReg8Rm8 (rm : RmOperand) (reg : Reg3) : Statement (.addReg8Rm8 rm reg) := of_class4

theorem addReg16Rm16 (rm : RmOperand) (reg : Reg3) : Statement (.addReg16Rm16 rm reg) := of_class4

theorem subRm8Reg8 (rm : RmOperand) (reg : Reg3) : Statement (.subRm8Reg8 rm reg) := of_class4

theorem subRm16Reg16 (rm : RmOperand) (reg : Reg3) : Statement (.subRm16Reg16 rm reg) := of_class4

theorem subReg8Rm8 (rm : RmOperand) (reg : Reg3) : Statement (.subReg8Rm8 rm reg) := of_class4

theorem subReg16Rm16 (rm : RmOperand) (reg : Reg3) : Statement (.subReg16Rm16 rm reg) := of_class4

theorem cmpRm8Reg8 (rm : RmOperand) (reg : Reg3) : Statement (.cmpRm8Reg8 rm reg) := of_class4

theorem cmpRm16Reg16 (rm : RmOperand) (reg : Reg3) : Statement (.cmpRm16Reg16 rm reg) := of_class4

theorem cmpReg8Rm8 (rm : RmOperand) (reg : Reg3) : Statement (.cmpReg8Rm8 rm reg) := of_class4

theorem cmpReg16Rm16 (rm : RmOperand) (reg : Reg3) : Statement (.cmpReg16Rm16 rm reg) := of_class4

theorem jo (disp : Byte) : Statement (.jo disp) := ⟨rfl, Nat.le_of_ble_eq_true rfl, Nat.le_of_ble_eq_true rfl⟩

theorem jno (disp : Byte) : Statement (.jno disp) := ⟨rfl, Nat.le_of_ble_eq_true rfl, Nat.le_of_ble_eq_true rfl⟩

theorem jb (disp : Byte) : Statement (.jb disp) := ⟨rfl, Nat.le_of_ble_eq_true rfl, Nat.le_of_ble_eq_true rfl⟩

theorem jnb (disp : Byte) : Statement (.jnb disp) := ⟨rfl, Nat.le_of_ble_eq_true rfl, Nat.le_of_ble_eq_true rfl⟩

theorem jz (disp : Byte) : Statement (.jz disp) := ⟨rfl, Nat.le_of_ble_eq_true rfl, Nat.le_of_ble_eq_true rfl⟩

theorem jnz (disp : Byte) : Statement (.jnz disp) := ⟨rfl, Nat.le_of_ble_eq_true rfl, Nat.le_of_ble_eq_true rfl⟩

theorem jbe (disp : Byte) : Statement (.jbe disp) := ⟨rfl, Nat.le_of_ble_eq_true rfl, Nat.le_of_ble_eq_true rfl⟩

theorem ja (disp : Byte) : Statement (.ja disp) := ⟨rfl, Nat.le_of_ble_eq_true rfl, Nat.le_of_ble_eq_true rfl⟩

theorem js (disp : Byte) : Statement (.js disp) := ⟨rfl, Nat.le_of_ble_eq_true rfl, Nat.le_of_ble_eq_true rfl⟩

theorem jns (disp : Byte) : Statement (.jns disp) := ⟨rfl, Nat.le_of_ble_eq_true rfl, Nat.le_of_ble_eq_true rfl⟩

theorem jp (disp : Byte) : Statement (.jp disp) := ⟨rfl, Nat.le_of_ble_eq_true rfl, Nat.le_of_ble_eq_true rfl⟩

theorem jnp (disp : Byte) : Statement (.jnp disp) := ⟨rfl, Nat.le_of_ble_eq_true rfl, Nat.le_of_ble_eq_true rfl⟩

theorem jl (disp : Byte) : Statement (.jl disp) := ⟨rfl, Nat.le_of_ble_eq_true rfl, Nat.le_of_ble_eq_true rfl⟩

theorem jnl (disp : Byte) : Statement (.jnl disp) := ⟨rfl, Nat.le_of_ble_eq_true rfl, Nat.le_of_ble_eq_true rfl⟩

theorem jle (disp : Byte) : Statement (.jle disp) := ⟨rfl, Nat.le_of_ble_eq_true rfl, Nat.le_of_ble_eq_true rfl⟩

theorem jg (disp : Byte) : Statement (.jg disp) := ⟨rfl, Nat.le_of_ble_eq_true rfl, Nat.le_of_ble_eq_true rfl⟩

theorem loopnz (disp : Byte) : Statement (.loopnz disp) := ⟨rfl, Nat.le_of_ble_eq_true rfl, Nat.le_of_ble_eq_true rfl⟩

theorem loopz (disp : Byte) : Statement (.loopz disp) := ⟨rfl, Nat.le_of_ble_eq_true rfl, Nat.le_of_ble_eq_true rfl⟩

theorem loop (disp : Byte) : Statement (.loop disp) := ⟨rfl, Nat.le_of_ble_eq_true rfl, Nat.le_of_ble_eq_true rfl⟩

theorem jcxz (disp : Byte) : Statement (.jcxz disp) := ⟨rfl, Nat.le_of_ble_eq_true rfl, Nat.le_of_ble_eq_true rfl⟩

end Sys2Proof.Laws.EncodedLength
end

