-- ==== Sys2Proof/Laws/Record.lean ====
section
/-! SUPPORT. The shape of a decoded record, said once: every instruction's record is one of the five classes' (R104). -/

namespace Sys2Proof

/-- Every record is made by one of the five builders; the proofs about all records case on this, not on 56 constructors. -/
theorem record_cases (i : Instr) :
    (∃ w reg n v, i.record = recMovImmReg w reg n v) ∨
      (∃ op w n v, i.record = recArithImmAcc op w n v) ∨
      (∃ op s w rm n v, i.record = recArithImmRm op s w rm n v) ∨
      (∃ op d w rm reg, i.record = recRmReg op d w rm reg) ∨
      ∃ tag op disp, (tag = .condJump ∨ tag = .loop) ∧ i.record = recJump tag op disp := by
  cases i <;> first
    | exact .inl ⟨_, _, _, _, rfl⟩
    | exact .inr (.inl ⟨_, _, _, _, rfl⟩)
    | exact .inr (.inr (.inl ⟨_, _, _, _, _, _, rfl⟩))
    | exact .inr (.inr (.inr (.inl ⟨_, _, _, _, _, rfl⟩)))
    | exact .inr (.inr (.inr (.inr ⟨_, _, _, .inl rfl, rfl⟩)))
    | exact .inr (.inr (.inr (.inr ⟨_, _, _, .inr rfl, rfl⟩)))

/-- The mod byte's three fields are read back (R66). -/
theorem field_modByte : ∀ (m : BitVec 2) (mid rm : Reg3),
    field (modByte m mid rm) 6 2 = m ∧ field (modByte m mid rm) 3 3 = mid ∧ field (modByte m mid rm) 0 3 = rm := by
  decide

end Sys2Proof
end

