-- ==== Sys2Proof/Tests/Slice0.lean ====
section
/-! SUPPORT. Tests, each with the vector of spec/95_test_vectors it is taken from, and a witness for every statement that
has hypotheses: inputs that meet all of them, at the boundaries of each clause. -/

open Sys2Proof Sys2Proof.Machine

namespace Sys2Proof.Tests

/-! ## Well-formedness: each check refuses an ill-formed term -/

/-- `mod = 0b00, rm = 0b110` is no base expression in class 3 (R68). -/
theorem test_wellFormed_refuses_class3_mem0_6 : (Instr.addRm8Imm8 (.mem0 6#3) 0#8).wellFormed = false := by decide

/-- Class 4 has no direct address (R69, R171). -/
theorem test_wellFormed_refuses_class4_direct : (Instr.movReg16Rm16 (.direct 0#16) 0#3).wellFormed = false := by decide

/-- The forms beside them are instructions. -/
theorem test_wellFormed_accepts_the_neighbours : (Instr.addRm8Imm8 (.direct 0#16) 0#8).wellFormed = true ∧
    (Instr.addRm8Imm8 (.mem0 5#3) 0#8).wellFormed = true ∧ (Instr.movReg16Rm16 (.mem0 6#3) 0#3).wellFormed = true := by
  decide

/-! ## Decoding and printing: one word of every instruction, written out from the spec -/

/-- V1.4. -/
theorem test_decode_movReg8Imm8 : decodeBytes [0xB5#8, 0xFF#8] = .ok (.movReg8Imm8 5#3 0xFF#8) ∧
    render (Instr.movReg8Imm8 5#3 0xFF#8).record = "mov ch, 255" := by decide

/-- V1.7. -/
theorem test_decode_movReg16Imm16 : decodeBytes [0xB9#8, 0x34#8, 0x12#8] = .ok (.movReg16Imm16 1#3 0x1234#16) ∧
    render (Instr.movReg16Imm16 1#3 0x1234#16).record = "mov cx, 4660" := by decide

/-- V2.1. -/
theorem test_decode_addAlImm8 : decodeBytes [0x04#8, 0x05#8] = .ok (.addAlImm8 5#8) ∧
    render (Instr.addAlImm8 5#8).record = "add al, 5" := by decide

/-- V2.4. -/
theorem test_decode_addAxImm16 : decodeBytes [0x05#8, 0x00#8, 0x10#8] = .ok (.addAxImm16 0x1000#16) ∧
    render (Instr.addAxImm16 0x1000#16).record = "add ax, 4096" := by decide

/-- V2.7. -/
theorem test_decode_subAlImm8 : decodeBytes [0x2C#8, 0x02#8] = .ok (.subAlImm8 2#8) ∧
    render (Instr.subAlImm8 2#8).record = "sub al, 2" := by decide

/-- V2.11. -/
theorem test_decode_subAxImm16 : decodeBytes [0x2D#8, 0xFF#8, 0xFF#8] = .ok (.subAxImm16 0xFFFF#16) ∧
    render (Instr.subAxImm16 0xFFFF#16).record = "sub ax, 65535" := by decide

/-- V2.12. -/
theorem test_decode_cmpAlImm8 : decodeBytes [0x3C#8, 0x09#8] = .ok (.cmpAlImm8 9#8) ∧
    render (Instr.cmpAlImm8 9#8).record = "cmp al, 9" := by decide

/-- V2.13. -/
theorem test_decode_cmpAxImm16 : decodeBytes [0x3D#8, 0x05#8, 0x00#8] = .ok (.cmpAxImm16 5#16) ∧
    render (Instr.cmpAxImm16 5#16).record = "cmp ax, 5" := by decide

/-- V3.3. -/
theorem test_decode_addRm8Imm8 : decodeBytes [0x80#8, 0x47#8, 0x04#8, 0x09#8] = .ok (.addRm8Imm8 (.mem8 7#3 4#8) 9#8) ∧
    render (Instr.addRm8Imm8 (.mem8 7#3 4#8) 9#8).record = "add byte [bx + 4], 9" := by decide

/-- V3.6. -/
theorem test_decode_addRm16Imm16 : decodeBytes [0x81#8, 0x87#8, 0x00#8, 0x01#8, 0xE8#8, 0x03#8] = .ok (.addRm16Imm16 (.mem16 7#3 0x0100#16) 1000#16) ∧
    render (Instr.addRm16Imm16 (.mem16 7#3 0x0100#16) 1000#16).record = "add word [bx + 256], 1000" := by decide

/-- V3.14. -/
theorem test_decode_addRm8Imm8S : decodeBytes [0x82#8, 0xC4#8, 0xFF#8] = .ok (.addRm8Imm8S (.reg 4#3) 0xFF#8) ∧
    render (Instr.addRm8Imm8S (.reg 4#3) 0xFF#8).record = "add ah, 255" := by decide

/-- V3.12. -/
theorem test_decode_addRm16Simm8 : decodeBytes [0x83#8, 0xC3#8, 0xFF#8] = .ok (.addRm16Simm8 (.reg 3#3) 0xFF#8) ∧
    render (Instr.addRm16Simm8 (.reg 3#3) 0xFF#8).record = "add bx, 65535" := by decide

/-- R63, R66, R81; the text of V3.15. -/
theorem test_decode_subRm8Imm8 : decodeBytes [0x80#8, 0x2F#8, 0x07#8] = .ok (.subRm8Imm8 (.mem0 7#3) 7#8) ∧
    render (Instr.subRm8Imm8 (.mem0 7#3) 7#8).record = "sub byte [bx], 7" := by decide

/-- P3 step 7. -/
theorem test_decode_subRm16Imm16 : decodeBytes [0x81#8, 0x2F#8, 0x00#8, 0x80#8] = .ok (.subRm16Imm16 (.mem0 7#3) 0x8000#16) ∧
    render (Instr.subRm16Imm16 (.mem0 7#3) 0x8000#16).record = "sub word [bx], 32768" := by decide

/-- V3.15. -/
theorem test_decode_subRm8Imm8S : decodeBytes [0x82#8, 0x2F#8, 0x07#8] = .ok (.subRm8Imm8S (.mem0 7#3) 7#8) ∧
    render (Instr.subRm8Imm8S (.mem0 7#3) 7#8).record = "sub byte [bx], 7" := by decide

/-- V3.16. -/
theorem test_decode_subRm16Simm8 : decodeBytes [0x83#8, 0xEC#8, 0x10#8] = .ok (.subRm16Simm8 (.reg 4#3) 0x10#8) ∧
    render (Instr.subRm16Simm8 (.reg 4#3) 0x10#8).record = "sub sp, 16" := by decide

/-- V3.7. -/
theorem test_decode_cmpRm8Imm8 : decodeBytes [0x80#8, 0x3E#8, 0xE8#8, 0x03#8, 0x05#8] = .ok (.cmpRm8Imm8 (.direct 1000#16) 5#8) ∧
    render (Instr.cmpRm8Imm8 (.direct 1000#16) 5#8).record = "cmp byte [1000], 5" := by decide

/-- V3.8. -/
theorem test_decode_cmpRm16Imm16 : decodeBytes [0x81#8, 0x3E#8, 0xE8#8, 0x03#8, 0x34#8, 0x12#8] = .ok (.cmpRm16Imm16 (.direct 1000#16) 0x1234#16) ∧
    render (Instr.cmpRm16Imm16 (.direct 1000#16) 0x1234#16).record = "cmp word [1000], 4660" := by decide

/-- R63, R66, R81, R220. -/
theorem test_decode_cmpRm8Imm8S : decodeBytes [0x82#8, 0xFB#8, 0x01#8] = .ok (.cmpRm8Imm8S (.reg 3#3) 1#8) ∧
    render (Instr.cmpRm8Imm8S (.reg 3#3) 1#8).record = "cmp bl, 1" := by decide

/-- V3.20. -/
theorem test_decode_cmpRm16Simm8 : decodeBytes [0x83#8, 0x7E#8, 0x80#8, 0x01#8] = .ok (.cmpRm16Simm8 (.mem8 6#3 0x80#8) 1#8) ∧
    render (Instr.cmpRm16Simm8 (.mem8 6#3 0x80#8) 1#8).record = "cmp word [bp + -128], 1" := by decide

/-- V4.3. -/
theorem test_decode_movRm8Reg8 : decodeBytes [0x88#8, 0xC4#8] = .ok (.movRm8Reg8 (.reg 4#3) 0#3) ∧
    render (Instr.movRm8Reg8 (.reg 4#3) 0#3).record = "mov ah, al" := by decide

/-- V4.5. -/
theorem test_decode_movRm16Reg16 : decodeBytes [0x89#8, 0x08#8] = .ok (.movRm16Reg16 (.mem0 0#3) 1#3) ∧
    render (Instr.movRm16Reg16 (.mem0 0#3) 1#3).record = "mov [bx + si], cx" := by decide

/-- V4.4. -/
theorem test_decode_movReg8Rm8 : decodeBytes [0x8A#8, 0xE0#8] = .ok (.movReg8Rm8 (.reg 0#3) 4#3) ∧
    render (Instr.movReg8Rm8 (.reg 0#3) 4#3).record = "mov ah, al" := by decide

/-- V4.12. -/
theorem test_decode_movReg16Rm16 : decodeBytes [0x8B#8, 0x7E#8, 0xFE#8] = .ok (.movReg16Rm16 (.mem8 6#3 0xFE#8) 7#3) ∧
    render (Instr.movReg16Rm16 (.mem8 6#3 0xFE#8) 7#3).record = "mov di, [bp + -2]" := by decide

/-- V4.23. -/
theorem test_decode_addRm8Reg8 : decodeBytes [0x00#8, 0x00#8] = .ok (.addRm8Reg8 (.mem0 0#3) 0#3) ∧
    render (Instr.addRm8Reg8 (.mem0 0#3) 0#3).record = "add [bx + si], al" := by decide

/-- V4.24. -/
theorem test_decode_addRm16Reg16 : decodeBytes [0x01#8, 0xD8#8] = .ok (.addRm16Reg16 (.reg 0#3) 3#3) ∧
    render (Instr.addRm16Reg16 (.reg 0#3) 3#3).record = "add ax, bx" := by decide

/-- V4.26. -/
theorem test_decode_addReg8Rm8 : decodeBytes [0x02#8, 0xC1#8] = .ok (.addReg8Rm8 (.reg 1#3) 0#3) ∧
    render (Instr.addReg8Rm8 (.reg 1#3) 0#3).record = "add al, cl" := by decide

/-- V4.25. -/
theorem test_decode_addReg16Rm16 : decodeBytes [0x03#8, 0x5E#8, 0x00#8] = .ok (.addReg16Rm16 (.mem8 6#3 0#8) 3#3) ∧
    render (Instr.addReg16Rm16 (.mem8 6#3 0#8) 3#3).record = "add bx, [bp]" := by decide

/-- R64, R66, R221. -/
theorem test_decode_subRm8Reg8 : decodeBytes [0x28#8, 0xC8#8] = .ok (.subRm8Reg8 (.reg 0#3) 1#3) ∧
    render (Instr.subRm8Reg8 (.reg 0#3) 1#3).record = "sub al, cl" := by decide

/-- V4.27. -/
theorem test_decode_subRm16Reg16 : decodeBytes [0x29#8, 0xD8#8] = .ok (.subRm16Reg16 (.reg 0#3) 3#3) ∧
    render (Instr.subRm16Reg16 (.reg 0#3) 3#3).record = "sub ax, bx" := by decide

/-- V4.28. -/
theorem test_decode_subReg8Rm8 : decodeBytes [0x2A#8, 0x87#8, 0x00#8, 0x01#8] = .ok (.subReg8Rm8 (.mem16 7#3 0x0100#16) 0#3) ∧
    render (Instr.subReg8Rm8 (.mem16 7#3 0x0100#16) 0#3).record = "sub al, [bx + 256]" := by decide

/-- V4.29. -/
theorem test_decode_subReg16Rm16 : decodeBytes [0x2B#8, 0x06#8] = .ok (.subReg16Rm16 (.mem0 6#3) 0#3) ∧
    render (Instr.subReg16Rm16 (.mem0 6#3) 0#3).record = "sub ax, [bp]" := by decide

/-- V4.32. -/
theorem test_decode_cmpRm8Reg8 : decodeBytes [0x38#8, 0xFF#8] = .ok (.cmpRm8Reg8 (.reg 7#3) 7#3) ∧
    render (Instr.cmpRm8Reg8 (.reg 7#3) 7#3).record = "cmp bh, bh" := by decide

/-- V4.30. -/
theorem test_decode_cmpRm16Reg16 : decodeBytes [0x39#8, 0xD8#8] = .ok (.cmpRm16Reg16 (.reg 0#3) 3#3) ∧
    render (Instr.cmpRm16Reg16 (.reg 0#3) 3#3).record = "cmp ax, bx" := by decide

/-- R64, R66, R79, R221. -/
theorem test_decode_cmpReg8Rm8 : decodeBytes [0x3A#8, 0x24#8] = .ok (.cmpReg8Rm8 (.mem0 4#3) 4#3) ∧
    render (Instr.cmpReg8Rm8 (.mem0 4#3) 4#3).record = "cmp ah, [si]" := by decide

/-- V4.31. -/
theorem test_decode_cmpReg16Rm16 : decodeBytes [0x3B#8, 0x7E#8, 0xFE#8] = .ok (.cmpReg16Rm16 (.mem8 6#3 0xFE#8) 7#3) ∧
    render (Instr.cmpReg16Rm16 (.mem8 6#3 0xFE#8) 7#3).record = "cmp di, [bp + -2]" := by decide

/-- V5.1. -/
theorem test_decode_jo : decodeBytes [0x70#8, 0x00#8] = .ok (.jo 0x00#8) ∧
    render (Instr.jo 0x00#8).record = "jo ; 0" := by decide

/-- V5.2. -/
theorem test_decode_jno : decodeBytes [0x71#8, 0x7F#8] = .ok (.jno 0x7F#8) ∧
    render (Instr.jno 0x7F#8).record = "jno ; 127" := by decide

/-- V5.3. -/
theorem test_decode_jb : decodeBytes [0x72#8, 0x80#8] = .ok (.jb 0x80#8) ∧
    render (Instr.jb 0x80#8).record = "jb ; -128" := by decide

/-- V5.4. -/
theorem test_decode_jnb : decodeBytes [0x73#8, 0xFE#8] = .ok (.jnb 0xFE#8) ∧
    render (Instr.jnb 0xFE#8).record = "jnb ; -2" := by decide

/-- V5.5. -/
theorem test_decode_jz : decodeBytes [0x74#8, 0x05#8] = .ok (.jz 0x05#8) ∧
    render (Instr.jz 0x05#8).record = "jz ; 5" := by decide

/-- V5.6. -/
theorem test_decode_jnz : decodeBytes [0x75#8, 0xFE#8] = .ok (.jnz 0xFE#8) ∧
    render (Instr.jnz 0xFE#8).record = "jnz ; -2" := by decide

/-- V5.7. -/
theorem test_decode_jbe : decodeBytes [0x76#8, 0xFB#8] = .ok (.jbe 0xFB#8) ∧
    render (Instr.jbe 0xFB#8).record = "jbe ; -5" := by decide

/-- V5.8. -/
theorem test_decode_ja : decodeBytes [0x77#8, 0x10#8] = .ok (.ja 0x10#8) ∧
    render (Instr.ja 0x10#8).record = "ja ; 16" := by decide

/-- V5.9. -/
theorem test_decode_js : decodeBytes [0x78#8, 0xFF#8] = .ok (.js 0xFF#8) ∧
    render (Instr.js 0xFF#8).record = "js ; -1" := by decide

/-- V5.10. -/
theorem test_decode_jns : decodeBytes [0x79#8, 0x02#8] = .ok (.jns 0x02#8) ∧
    render (Instr.jns 0x02#8).record = "jns ; 2" := by decide

/-- V5.11. -/
theorem test_decode_jp : decodeBytes [0x7A#8, 0x64#8] = .ok (.jp 0x64#8) ∧
    render (Instr.jp 0x64#8).record = "jp ; 100" := by decide

/-- V5.12. -/
theorem test_decode_jnp : decodeBytes [0x7B#8, 0x9C#8] = .ok (.jnp 0x9C#8) ∧
    render (Instr.jnp 0x9C#8).record = "jnp ; -100" := by decide

/-- V5.13. -/
theorem test_decode_jl : decodeBytes [0x7C#8, 0xF0#8] = .ok (.jl 0xF0#8) ∧
    render (Instr.jl 0xF0#8).record = "jl ; -16" := by decide

/-- V5.14. -/
theorem test_decode_jnl : decodeBytes [0x7D#8, 0x0A#8] = .ok (.jnl 0x0A#8) ∧
    render (Instr.jnl 0x0A#8).record = "jnl ; 10" := by decide

/-- V5.15. -/
theorem test_decode_jle : decodeBytes [0x7E#8, 0x81#8] = .ok (.jle 0x81#8) ∧
    render (Instr.jle 0x81#8).record = "jle ; -127" := by decide

/-- V5.16. -/
theorem test_decode_jg : decodeBytes [0x7F#8, 0x01#8] = .ok (.jg 0x01#8) ∧
    render (Instr.jg 0x01#8).record = "jg ; 1" := by decide

/-- V5.17. -/
theorem test_decode_loopnz : decodeBytes [0xE0#8, 0xFA#8] = .ok (.loopnz 0xFA#8) ∧
    render (Instr.loopnz 0xFA#8).record = "loopnz ; -6" := by decide

/-- V5.18. -/
theorem test_decode_loopz : decodeBytes [0xE1#8, 0xFC#8] = .ok (.loopz 0xFC#8) ∧
    render (Instr.loopz 0xFC#8).record = "loopz ; -4" := by decide

/-- V5.19. -/
theorem test_decode_loop : decodeBytes [0xE2#8, 0xFB#8] = .ok (.loop 0xFB#8) ∧
    render (Instr.loop 0xFB#8).record = "loop ; -5" := by decide

/-- V5.20. -/
theorem test_decode_jcxz : decodeBytes [0xE3#8, 0x03#8] = .ok (.jcxz 0x03#8) ∧
    render (Instr.jcxz 0x03#8).record = "jcxz ; 3" := by decide

/-! ## Applying: classes 1 and 2 -/

/-- `ax` after executing an instruction with `ax` as given and the other registers 0. -/
def axAfter (mode : AccApply) (i : Instr) (ax : Word) : Option Word :=
  match exec i { State.reset with regs := writeWord State.reset.regs 0#3 ax, cfg := { State.reset.cfg with accApply := mode } } with
  | .next t => some (readWord t.regs 0#3)
  | .fault _ => none
  | .refused _ => none

/-- V1.13, V1.14. -/
theorem test_apply_movReg8 : axAfter .arith (.movReg8Imm8 0#3 0xFF#8) 0x1200#16 = some 0x12FF#16 ∧
    axAfter .arith (.movReg8Imm8 4#3 0xAB#8) 0x12FF#16 = some 0xABFF#16 := by decide

/-- V1.18. -/
theorem test_apply_movReg16 : axAfter .arith (.movReg16Imm16 0#3 0#16) 0xFFFF#16 = some 0#16 := by decide

/-- V2.1, V2.2. -/
theorem test_apply_addAl : axAfter .arith (.addAlImm8 5#8) 0x12FE#16 = some 0x1203#16 ∧
    axAfter .arith (.addAlImm8 1#8) 0x00FF#16 = some 0#16 := by decide

/-- V2.5. -/
theorem test_apply_addAx : axAfter .arith (.addAxImm16 1#16) 0xFFFF#16 = some 0#16 := by decide

/-- V2.7. -/
theorem test_apply_subAl : axAfter .arith (.subAlImm8 2#8) 0x1001#16 = some 0x10FF#16 := by decide

/-- V2.9, V2.11. -/
theorem test_apply_subAx : axAfter .arith (.subAxImm16 1#16) 0#16 = some 0xFFFF#16 ∧
    axAfter .arith (.subAxImm16 0xFFFF#16) 5#16 = some 6#16 := by decide

/-- V2.12; under the other setting the note before V2: `{before[15:8], imm8}`. -/
theorem test_apply_cmpAl : axAfter .arith (.cmpAlImm8 9#8) 0x1234#16 = some 0x1234#16 ∧
    axAfter .loadImm (.cmpAlImm8 9#8) 0x1234#16 = some 0x1209#16 := by decide

/-- V2.13. -/
theorem test_apply_cmpAx : axAfter .arith (.cmpAxImm16 5#16) 5#16 = some 5#16 := by decide

/-- V7.4: byte index 7 is `bh`, not a half of `di`. -/
theorem test_writeByte_bh : readWord (writeByte (writeWord State.reset.regs 7#3 0x5555#16) 7#3 0xAA#8) 3#3 = 0xAA00#16 ∧
    readWord (writeByte (writeWord State.reset.regs 7#3 0x5555#16) 7#3 0xAA#8) 7#3 = 0x5555#16 := by decide

/-! ## Steps -/

/-- The start of a pass over these bytes. -/
def pass (bytes : List Byte) : State := State.reset.startPass none false bytes

/-- What a step's next state shows beside the registers. -/
def view (o : Host.Outcome State Fault Refusal) : Option (Phase × Nat × Option ErrorRecord × List Text) :=
  match o with
  | .next t => some (t.phase, t.cur, t.err, t.out)
  | .fault _ => none
  | .refused _ => none

/-- S7, V6.51, first step. -/
theorem test_step_runs : view (step (pass [0xB8#8, 1#8, 0#8, 0xF4#8])) =
    some (.running, 3, none, ["bits 16", "", "mov ax, 1"]) := by decide

/-- V6.51, second step: the same stream with the cursor at 3. -/
theorem test_step_unrecognised : view (step { pass [0xB8#8, 1#8, 0#8, 0xF4#8, 0xB0#8, 1#8] with cur := 3 }) =
    some (.failed, 3, some (.unrecognizedOpcode 3 0xF4#8), ["bits 16", ""]) := by decide

/-- V6.52. -/
theorem test_step_truncated : view (step (pass [0xB8#8, 1#8])) =
    some (.failed, 0, some (.truncatedInstruction 0 3 2), ["bits 16", ""]) := by decide

/-- V3.27 and V3.32: a mod byte missing is truncated, a bad sub-operation beats truncation. -/
theorem test_step_class3_last_bytes :
    view (step (pass [0x83#8])) = some (.failed, 0, some (.truncatedInstruction 0 2 1), ["bits 16", ""]) ∧
    view (step (pass [0x80#8, 0x0F#8])) = some (.failed, 0, some (.unrecognizedOpcode 0 0x80#8), ["bits 16", ""]) := by
  decide

/-- V3.30, V3.31: the bytes needed are the whole instruction's. -/
theorem test_step_class3_needed :
    view (step (pass [0x81#8, 0x3E#8, 0xE8#8, 3#8, 0x34#8])) =
      some (.failed, 0, some (.truncatedInstruction 0 6 5), ["bits 16", ""]) ∧
    view (step (pass [0x80#8, 0x3E#8, 0xE8#8])) =
      some (.failed, 0, some (.truncatedInstruction 0 5 3), ["bits 16", ""]) := by decide

/-- V6.49. -/
theorem test_step_empty_stream : view (step (pass [])) = some (.done, 0, none, ["bits 16", ""]) := by decide

/-- V5.21: a `loop` to itself is printed, not taken. -/
theorem test_step_loop_not_taken : view (step (pass [0xE2#8, 0xFE#8])) =
    some (.running, 2, none, ["bits 16", "", "loop ; -2"]) := by decide

/-- V6.63. -/
theorem test_no_step_in_done_or_failed :
    step { pass [0xB0#8, 1#8] with phase := .done } = .fault .noStepInDone ∧
    step { pass [0xB0#8, 1#8] with phase := .failed } = .fault .noStepInFailed := ⟨rfl, rfl⟩

/-- R25: two bytes above a cap of 1 are refused, two bytes at a cap of 2 are not. -/
theorem test_cap : step (State.reset.startPass (some 1) false [0xB0#8, 1#8]) = .refused .bufferExceedsCap ∧
    view (step (State.reset.startPass (some 2) false [0xB0#8, 1#8])) =
      some (.running, 2, none, ["bits 16", "", "mov al, 1"]) := ⟨rfl, by decide⟩

/-- V6.60, V6.61, V6.62. -/
theorem test_ports : decodePort (Memory.ofBytes [0xB8#8, 1#8, 0#8]) 3 = .error (.truncatedInstruction 3 1 0) ∧
    getWord State.reset.regs 8 = .error .registerIndexOutOfRange ∧ getWord State.reset.regs 7 = .value 0#16 := by decide

/-- R244. -/
theorem test_errCode : errCode none = 0 ∧ errCode (some (.unrecognizedOpcode 0 0#8)) = 1 ∧
    errCode (some (.truncatedInstruction 0 1 0)) = 2 ∧ errCode (some .registerIndexOutOfRange) = 3 := by decide

/-- R28, R210. -/
theorem test_sinkText : sinkText ["bits 16", "", "mov ax, 1"] = "bits 16\n\nmov ax, 1\n" := by decide

/-- The next step after `withFetchWord` runs the instruction of the word: V4.1, `8B CA`, bit 0 the first byte's. -/
theorem test_withFetchWord : decodeTableWord 16 0xCA8B = some (.movReg16Rm16 (.reg 2#3) 1#3) ∧
    view (step (State.reset.withFetchWord 16 0xCA8B)) = some (.running, 2, none, ["bits 16", "", "mov cx, dx"]) := by decide

/-! ## Witnesses of the statements' hypotheses -/

/-- The premises of `RuleHolds` on these bytes: they stand inside a stream, and every proper prefix ends one. -/
def Meets (bytes : List Byte) : Prop :=
  bytes <+: (Memory.ofBytes (0xF4#8 :: (bytes ++ [0xF4#8]))).window 1 Config.maxLen ∧
    ∀ k ∈ List.range bytes.length, 0 < k → (Memory.ofBytes (bytes.take k)).window 0 Config.maxLen = bytes.take k

theorem witness_MovReg8Imm8MeetsItsRule : Meets [0b10110#5 ++ 0#3, 0xFF#8] ∧
    Meets [0b10110#5 ++ 7#3, 0#8] := by
  unfold Meets; decide

theorem witness_MovReg16Imm16MeetsItsRule : Meets [0b10111#5 ++ 0#3, 0xFF#8, 0xFF#8] ∧
    Meets [0b10111#5 ++ 7#3, 0#8, 0#8] := by
  unfold Meets; decide

theorem witness_AddAlImm8MeetsItsRule : Meets [0x04#8, 0xFF#8] ∧
    State.reset.cfg.accApply = .arith := by
  unfold Meets; decide

theorem witness_AddAxImm16MeetsItsRule : Meets [0x05#8, 0xFF#8, 0xFF#8] ∧
    State.reset.cfg.accApply = .arith := by
  unfold Meets; decide

theorem witness_SubAlImm8MeetsItsRule : Meets [0x2C#8, 0xFF#8] ∧
    State.reset.cfg.accApply = .arith := by
  unfold Meets; decide

theorem witness_SubAxImm16MeetsItsRule : Meets [0x2D#8, 0xFF#8, 0xFF#8] ∧
    State.reset.cfg.accApply = .arith := by
  unfold Meets; decide

theorem witness_CmpAccumulatorMeetsItsRules : Meets [0x3C#8, 0x09#8] ∧
    Meets [0x3D#8, 0x05#8, 0x00#8] ∧
    State.reset.cfg.accApply = .arith := by
  unfold Meets; decide

theorem witness_LoadImmSettingLoadsTheAccumulator :
    ({ State.reset with cfg := { State.reset.cfg with accApply := .loadImm } } : State).cfg.accApply = .loadImm := by decide

/-- Every operand form class 3 admits. -/
theorem witness_class3_operands : ∀ rm ∈ [RmOperand.reg 7#3, .mem0 5#3, .mem0 7#3, .mem8 6#3 0x80#8, .mem16 6#3 0x8000#16,
    .direct 0xFFFF#16], rm.class3Ok = true := by decide

/-- Every operand form class 4 admits. -/
theorem witness_class4_operands : ∀ rm ∈ [RmOperand.reg 7#3, .mem0 6#3, .mem0 7#3, .mem8 6#3 0x80#8, .mem16 6#3 0x8000#16],
    rm.class4Ok = true := by decide

theorem witness_AddRmImmMeetsItsRule : Meets (0x80#8 :: ((RmOperand.direct 1000#16).encode 0b000#3 ++ [5#8])) ∧
    Meets (0x81#8 :: ((RmOperand.mem16 6#3 0x8000#16).encode 0b000#3 ++ [0xE8#8, 3#8])) ∧
    Meets (0x82#8 :: ((RmOperand.mem0 5#3).encode 0b000#3 ++ [5#8])) ∧
    Meets (0x83#8 :: ((RmOperand.mem8 6#3 0x80#8).encode 0b000#3 ++ [0xFF#8])) ∧
    (RmOperand.mem0 5#3).class3Ok = true := by
  unfold Meets; decide

theorem witness_SubRmImmMeetsItsRule : Meets (0x80#8 :: ((RmOperand.direct 1000#16).encode 0b101#3 ++ [5#8])) ∧
    Meets (0x81#8 :: ((RmOperand.mem16 6#3 0x8000#16).encode 0b101#3 ++ [0xE8#8, 3#8])) ∧
    Meets (0x82#8 :: ((RmOperand.mem0 5#3).encode 0b101#3 ++ [5#8])) ∧
    Meets (0x83#8 :: ((RmOperand.mem8 6#3 0x80#8).encode 0b101#3 ++ [0xFF#8])) ∧
    (RmOperand.mem0 5#3).class3Ok = true := by
  unfold Meets; decide

theorem witness_CmpRmImmMeetsItsRule : Meets (0x80#8 :: ((RmOperand.direct 1000#16).encode 0b111#3 ++ [5#8])) ∧
    Meets (0x81#8 :: ((RmOperand.mem16 6#3 0x8000#16).encode 0b111#3 ++ [0xE8#8, 3#8])) ∧
    Meets (0x82#8 :: ((RmOperand.mem0 5#3).encode 0b111#3 ++ [5#8])) ∧
    Meets (0x83#8 :: ((RmOperand.mem8 6#3 0x80#8).encode 0b111#3 ++ [0xFF#8])) ∧
    (RmOperand.mem0 5#3).class3Ok = true := by
  unfold Meets; decide

theorem witness_MovRmRegMeetsItsRule : Meets (0x88#8 :: (RmOperand.mem0 6#3).encode 7#3) ∧
    Meets (0x89#8 :: (RmOperand.mem8 6#3 0x80#8).encode 0#3) ∧
    Meets (0x8A#8 :: (RmOperand.reg 7#3).encode 7#3) ∧
    Meets (0x8B#8 :: (RmOperand.mem16 0#3 0xFFFE#16).encode 0#3) ∧
    (RmOperand.mem0 6#3).class4Ok = true := by
  unfold Meets; decide

theorem witness_AddRmRegMeetsItsRule : Meets (0x00#8 :: (RmOperand.mem0 6#3).encode 7#3) ∧
    Meets (0x01#8 :: (RmOperand.mem8 6#3 0x80#8).encode 0#3) ∧
    Meets (0x02#8 :: (RmOperand.reg 7#3).encode 7#3) ∧
    Meets (0x03#8 :: (RmOperand.mem16 0#3 0xFFFE#16).encode 0#3) ∧
    (RmOperand.mem0 6#3).class4Ok = true := by
  unfold Meets; decide

theorem witness_SubRmRegMeetsItsRule : Meets (0x28#8 :: (RmOperand.mem0 6#3).encode 7#3) ∧
    Meets (0x29#8 :: (RmOperand.mem8 6#3 0x80#8).encode 0#3) ∧
    Meets (0x2A#8 :: (RmOperand.reg 7#3).encode 7#3) ∧
    Meets (0x2B#8 :: (RmOperand.mem16 0#3 0xFFFE#16).encode 0#3) ∧
    (RmOperand.mem0 6#3).class4Ok = true := by
  unfold Meets; decide

theorem witness_CmpRmRegMeetsItsRule : Meets (0x38#8 :: (RmOperand.mem0 6#3).encode 7#3) ∧
    Meets (0x39#8 :: (RmOperand.mem8 6#3 0x80#8).encode 0#3) ∧
    Meets (0x3A#8 :: (RmOperand.reg 7#3).encode 7#3) ∧
    Meets (0x3B#8 :: (RmOperand.mem16 0#3 0xFFFE#16).encode 0#3) ∧
    (RmOperand.mem0 6#3).class4Ok = true := by
  unfold Meets; decide

theorem witness_OverflowToAboveJumpsMeetTheirRules : Meets [0x70#8, 0x80#8] ∧
    Meets [0x71#8, 0x80#8] ∧
    Meets [0x72#8, 0x80#8] ∧
    Meets [0x73#8, 0x80#8] ∧
    Meets [0x74#8, 0x80#8] ∧
    Meets [0x75#8, 0x80#8] ∧
    Meets [0x76#8, 0x80#8] ∧
    Meets [0x77#8, 0x80#8] := by
  unfold Meets; decide

theorem witness_SignToGreaterJumpsMeetTheirRules : Meets [0x78#8, 0x80#8] ∧
    Meets [0x79#8, 0x80#8] ∧
    Meets [0x7A#8, 0x80#8] ∧
    Meets [0x7B#8, 0x80#8] ∧
    Meets [0x7C#8, 0x80#8] ∧
    Meets [0x7D#8, 0x80#8] ∧
    Meets [0x7E#8, 0x80#8] ∧
    Meets [0x7F#8, 0x80#8] := by
  unfold Meets; decide

theorem witness_LoopFamilyMeetsItsRules : Meets [0xE0#8, 0x7F#8] ∧
    Meets [0xE1#8, 0x7F#8] ∧
    Meets [0xE2#8, 0x7F#8] ∧
    Meets [0xE3#8, 0x7F#8] := by
  unfold Meets; decide

theorem witness_ClassFourHasNoDirectAddress :
    [0x88#8, modByte 0b00#2 0#3 0b110#3] <+: (Memory.ofBytes [0x88#8, 0x06#8]).window 0 Config.maxLen ∧
    [0x3B#8, modByte 0b00#2 7#3 0b110#3] <+: (Memory.ofBytes [0xF4#8, 0x3B#8, 0x3E#8, 0xF4#8]).window 1 Config.maxLen := by
  decide

theorem witness_JumpsNeverTransferControl : (Instr.jg 0xFE#8).record.classTag = .condJump ∧
    (Instr.loop 0xFE#8).record.classTag = .loop := by decide

theorem witness_ApplyIsTheTableOfClasses : ∀ i ∈ [Instr.addRm8Imm8 (.reg 0#3) 1#8, .addReg8Rm8 (.reg 1#3) 0#3, .jo 0#8, .loop 0#8],
    i.record.classTag ≠ .immToRegMov ∧ i.record.classTag ≠ .immToAccArith := by decide

/-- One instruction of each arm, and a register outside what it writes. -/
theorem witness_FrameOfEveryInstruction : (∀ i ∈ [Instr.movReg16Imm16 7#3 1#16, .movReg8Imm8 3#3 1#8, .movReg8Imm8 4#3 1#8,
      .addAlImm8 1#8, .subAlImm8 1#8, .cmpAlImm8 1#8, .addAxImm16 1#16, .subAxImm16 1#16, .cmpAxImm16 1#16,
      .addRm16Imm16 (.direct 0#16) 1#16, .movRm16Reg16 (.mem0 6#3) 0#3, .jcxz 0#8], (view (exec i State.reset)).isSome = true) ∧
    (6#3 : Reg3) ≠ 7#3 ∧ (4#3 : Reg3).toNat ≠ (3#3 : Reg3).toNat % 4 ∧ (4#3 : Reg3).toNat ≠ (4#3 : Reg3).toNat % 4 ∧
    (4#3 : Reg3) ≠ 0#3 := by decide

/-- A next state, a fault, a refusal, and a record outside classes 1 and 2. -/
theorem witness_RegistersReachOnlyRegisters : (view (step (pass [0x04#8, 1#8]))).isSome = true ∧
    step { pass [] with phase := .done } = .fault .noStepInDone ∧
    step (State.reset.startPass (some 1) false [0x04#8, 1#8]) = .refused .bufferExceedsCap ∧
    (Instr.movReg16Rm16 (.reg 1#3) 0#3).record.classTag ≠ .immToRegMov ∧
    (Instr.movReg16Rm16 (.reg 1#3) 0#3).record.classTag ≠ .immToAccArith := ⟨by decide, rfl, rfl, by decide, by decide⟩

theorem witness_StepRunsTheDecodedInstruction :
    (pass [0x04#8, 1#8]).withinCap = true ∧ (pass [0x04#8, 1#8]).phase = .running ∧
    decodeBytes ((pass [0x04#8, 1#8]).buf.window (pass [0x04#8, 1#8]).cur Config.maxLen) = .ok (.addAlImm8 1#8) ∧
    (Instr.addAlImm8 1#8).wellFormed = true ∧
    encode (.addAlImm8 1#8) <+: (pass [0x04#8, 1#8]).buf.window (pass [0x04#8, 1#8]).cur Config.maxLen := by decide

/-- The three clauses: an instruction that ends the stream, an error in its last byte, the end itself. -/
theorem witness_DriverStepFollowsItsProcedure : ∀ s ∈ [pass [0x04#8, 1#8], pass [0x04#8], pass []],
    s.withinCap = true ∧ s.phase = .running ∧ s.cur ≤ s.buf.len := by decide

theorem witness_DriverStepFollowsItsProcedure_clauses : (pass []).cur = (pass []).buf.len ∧
    ((pass [0x04#8]).cur < (pass [0x04#8]).buf.len ∧
      decodeAt (pass [0x04#8]).buf (pass [0x04#8]).cur = .err (.truncatedInstruction 0 2 1)) ∧
    decodeAt (pass [0x04#8, 1#8]).buf (pass [0x04#8, 1#8]).cur = .ok (.addAlImm8 1#8) := by decide

theorem witness_TakingAnErrorLatchesAndStops : ∀ s ∈ [pass [0xF4#8], pass [0x04#8]],
    s.withinCap = true ∧ s.phase = .running ∧ s.cur ≠ s.buf.len ∧
      ∃ e ∈ [ErrorRecord.unrecognizedOpcode 0 0xF4#8, .truncatedInstruction 0 2 1], decodeAt s.buf s.cur = .err e := by decide

theorem witness_NoStepAfterThePassEnds : (State.reset.startPass (some 2) false [0x04#8, 1#8]).withinCap = true ∧
    (State.reset.startPass (some 1) false [0x04#8, 1#8]).withinCap = false ∧ (pass []).phase = .running := by decide

/-- The invariant holds where a step can be taken: at the start, with a cap met exactly, and in a later state. -/
theorem witness_inv : (pass [0x04#8, 1#8]).Inv ∧ (State.reset.startPass (some 2) false [0x04#8, 1#8]).Inv ∧
    ({ pass [0x04#8, 1#8] with cur := 2, out := header ++ ["add al, 1"] } : State).Inv :=
  ⟨⟨by decide, by decide, by decide, by decide, rfl⟩, ⟨by decide, by decide, by decide, by decide, rfl⟩, ⟨by decide, by decide, by decide, by decide, rfl⟩⟩

/-- From them, a step of each kind: an instruction, the end, an error. -/
theorem witness_EveryStepMakesProgress : (pass [0x04#8, 1#8]).Inv ∧ (view (step (pass [0x04#8, 1#8]))).isSome = true :=
  ⟨⟨by decide, by decide, by decide, by decide, rfl⟩, by decide⟩

theorem witness_EveryStepKeepsTheInvariant : (pass [0xF4#8]).Inv ∧ (view (step (pass [0xF4#8]))).isSome = true ∧
    (pass []).Inv ∧ (view (step (pass []))).isSome = true :=
  ⟨⟨by decide, by decide, by decide, by decide, rfl⟩, by decide,
    ⟨by decide, by decide, by decide, by decide, rfl⟩, by decide⟩

theorem witness_EveryStepKeepsTheLinearScan : (pass [0x04#8, 1#8]).Swept ∧ (view (step (pass [0x04#8, 1#8]))).isSome = true :=
  ⟨⟨[], by decide, by decide, by decide⟩, by decide⟩

/-- A state one instruction into its pass. -/
theorem witness_swept_later : State.Swept
    { pass [0x04#8, 1#8] with
      cur := 2
      out := header ++ ["add al, 1"]
      regs := writeWord State.reset.regs 0#3 1#16 } :=
  ⟨[.addAlImm8 1#8], by decide, by decide, by decide⟩

/-- The three answers below `N`, and two streams alike from the cursor on. -/
theorem witness_DecodeContract : 0 < (Memory.ofBytes [0x04#8, 1#8]).len ∧ 0 < (Memory.ofBytes [0xF4#8]).len ∧
    1 < (Memory.ofBytes [0xF4#8, 0x04#8]).len ∧
    ((Memory.ofBytes [0xF4#8, 0x04#8]).len = (Memory.ofBytes [0xB0#8, 0x04#8]).len ∧
      (Memory.ofBytes [0xF4#8, 0x04#8]).read 1 = (Memory.ofBytes [0xB0#8, 0x04#8]).read 1 ∧
      ∀ m ∈ [Memory.ofBytes [0xF4#8, 0x04#8], Memory.ofBytes [0xB0#8, 0x04#8]], m.len = 2) := by decide

/-- A lone class 3 and a lone class 4 first byte (V3.27, V4.34); beside them a lone jump opcode, and two bytes of class 3
and of class 4 (V5.22, V3.28, V4.35), which begin an encoding. -/
theorem witness_TruncationIsCounted :
    ((Memory.ofBytes [0x83#8]).read 0 = some 0x83#8 ∧ field 0x83#8 2 6 = 0b100000#6 ∧
      decodeAt (Memory.ofBytes [0x83#8]) 0 = .err (.truncatedInstruction 0 2 1)) ∧
    ((Memory.ofBytes [0x8B#8]).read 0 = some 0x8B#8 ∧ (rmRegOp? (field 0x8B#8 2 6)).isSome = true ∧
      decodeAt (Memory.ofBytes [0x8B#8]) 0 = .err (.truncatedInstruction 0 2 1)) ∧
    ((Memory.ofBytes [0x75#8]).window 0 Config.maxLen <+: encode (.jnz 0#8) ∧
      decodeAt (Memory.ofBytes [0x75#8]) 0 = .err (.truncatedInstruction 0 2 1)) ∧
    ((Memory.ofBytes [0x83#8, 0xC3#8]).window 0 Config.maxLen <+: encode (.addRm16Simm8 (.reg 3#3) 0#8) ∧
      decodeAt (Memory.ofBytes [0x83#8, 0xC3#8]) 0 = .err (.truncatedInstruction 0 3 2)) ∧
    (Memory.ofBytes [0x8B#8, 0x40#8]).window 0 Config.maxLen <+: encode (.movReg16Rm16 (.mem8 0#3 0#8) 0#3) ∧
    decodeAt (Memory.ofBytes [0x8B#8, 0x40#8]) 0 = .err (.truncatedInstruction 0 3 2) := by decide

/-- A recognised first byte in the last place. -/
theorem witness_TruncationIsCounted_last : (Instr.jg 0#8).wellFormed = true ∧ (Memory.ofBytes [0x7F#8]).len = 0 + 1 ∧
    (Memory.ofBytes [0x7F#8]).read 0 = (encode (.jg 0#8)).head? := by decide

/-- The edges of the seven ranges (V6.4, V6.5, V6.10, V6.11, V6.16, V6.17 and on; V6.1, V6.6, V6.12 and on). -/
theorem witness_UnrecognisedFirstBytes :
    (∀ n ∈ [0x06, 0x27, 0x2E, 0x37, 0x3E, 0x6F, 0x84, 0x87, 0x8C, 0xAF, 0xC0, 0xDF, 0xE4, 0xFF], n ∈ unrecognisedRanges) ∧
    ∀ n ∈ [0x05, 0x28, 0x2D, 0x38, 0x3D, 0x70, 0x83, 0x88, 0x8B, 0xB0, 0xBF, 0xE0, 0xE3], n ∉ unrecognisedRanges := by decide

theorem witness_ClassThreeSubOperationsOutsideTheSubset : field 0x0F#8 3 3 ∈ ([0b001, 0b010, 0b011, 0b100, 0b110] : List Reg3) ∧
    [0x80#8, 0x0F#8] <+: (Memory.ofBytes [0x80#8, 0x0F#8]).window 0 Config.maxLen ∧
    [0x83#8, 0xF0#8] <+: (Memory.ofBytes [0x83#8, 0xF0#8, 1#8]).window 0 Config.maxLen ∧
    field 0xF0#8 3 3 ∈ ([0b001, 0b010, 0b011, 0b100, 0b110] : List Reg3) ∧
    (Memory.ofBytes [0xF4#8, 0x83#8]).window 1 Config.maxLen = [0x83#8] := by decide

theorem witness_DecodePastTheEnd : (Memory.ofBytes [0xB8#8, 1#8, 0#8]).len ≤ 3 ∧ (Memory.ofBytes []).len ≤ 0 ∧
    (pass []).withinCap = true ∧ (pass []).phase = .running ∧ (pass []).cur = (pass []).buf.len := by decide

/-- Every class, with the shortest and the longest form. -/
theorem witness_wellFormed : ∀ i ∈ [Instr.movReg8Imm8 0#3 0#8, .movReg16Imm16 7#3 0#16, .addAlImm8 0#8, .cmpAxImm16 0#16,
    .addRm8Imm8 (.reg 0#3) 0#8, .cmpRm16Imm16 (.direct 0#16) 0#16, .movRm8Reg8 (.mem0 6#3) 0#3,
    .cmpReg16Rm16 (.mem16 7#3 0#16) 7#3, .jo 0#8, .jcxz 0#8], i.wellFormed = true := by decide

theorem witness_LengthIsTheSumOfItsParts : (Instr.cmpRm16Imm16 (.direct 0#16) 0#16).wellFormed = true := by decide

theorem witness_RecordsCarryTheFieldsOfTheirClass : (Instr.addRm8Imm8 (.mem8 6#3 0#8) 0#8).wellFormed = true := by decide

theorem witness_DecodeOfEncodeIsTheInstruction : (Instr.cmpReg16Rm16 (.mem16 7#3 0#16) 7#3).wellFormed = true := by decide

theorem witness_EncodeOfDecodeIsTheBytes :
    decodeBytes [0x82#8, 0xC4#8, 0xFF#8, 0xF4#8] = .ok (.addRm8Imm8S (.reg 4#3) 0xFF#8) := by decide

/-- The same two bytes at two places of two streams. -/
theorem witness_RecordDependsOnItsBytesAlone : decodeAt (Memory.ofBytes [0x04#8, 1#8]) 0 = .ok (.addAlImm8 1#8) ∧
    ∀ k ∈ List.range (Instr.addAlImm8 1#8).record.length,
      (Memory.ofBytes [0xF4#8, 0x04#8, 1#8, 0xF4#8]).read (1 + k) = (Memory.ofBytes [0x04#8, 1#8]).read (0 + k) := by decide

/-- The least and the greatest displacement that is not 0, signed. -/
theorem witness_ZeroDisplacementIsElided : 0x80#8 ≠ 0#8 ∧ 0x7F#8 ≠ 0#8 ∧ 0x8000#16 ≠ 0#16 ∧ 0x7FFF#16 ≠ 0#16 := by decide

theorem witness_OperandNamesAreTheTables : regName 7#3 false = regName 7#3 false ∧ regName 0#3 true = regName 0#3 true := ⟨rfl, rfl⟩

theorem witness_RecordsAreOneToOne : (Instr.addRm8Imm8 (.reg 0#3) 1#8).record = (Instr.addRm8Imm8 (.reg 0#3) 1#8).record := rfl

/-- A state and the same state with `CFG.DEBUG = 1`, another source of debug lines and a debug line printed. -/
theorem witness_DebugLinesChangeNothingElse : Undebugged (pass [0x04#8, 1#8])
    { pass [0x04#8, 1#8] with cfg := { (pass [0x04#8, 1#8]).cfg with debug := true }, debugSource := 5, out := header ++ ["; 04 01"] } ∧
    (view (step (pass [0x04#8, 1#8]))).isSome = true := by
  unfold Undebugged; decide

theorem witness_OutputGrowsOneLineAStep : (view (step (pass [0x04#8, 1#8]))).isSome = true ∧ (pass [0x04#8, 1#8]).cfg.debug = false ∧
    view (step (pass [])) = some (.done, 0, none, ["bits 16", ""]) := by decide

theorem witness_ConfigurationAndStreamAreConstant : (view (step (pass [0x04#8, 1#8]))).isSome = true := by decide

theorem witness_PassEndsWithinHalfTheStream : (pass [0x04#8, 1#8]).withinCap = true ∧ (pass [0x04#8, 1#8]).phase = .running ∧
    (pass [0x04#8, 1#8]).cur ≤ (pass [0x04#8, 1#8]).buf.len ∧ (pass []).cur ≤ (pass []).buf.len := by decide

/-- A pass that is Done and one that is Failed, each after two steps, the first with its cap met exactly. -/
theorem witness_EndOfAPassMeansWhatItSays : (∀ c, some 2 = some c → [0x04#8, 1#8].length ≤ c) ∧
    view (runPass 2 (State.reset.startPass (some 2) false [0x04#8, 1#8])) = some (.done, 2, none, ["bits 16", "", "add al, 1"]) ∧
    view (runPass 2 (State.reset.startPass none false [0x04#8, 1#8, 0xF4#8])) =
      some (.failed, 2, some (.unrecognizedOpcode 2 0xF4#8), ["bits 16", "", "add al, 1"]) :=
  ⟨fun c h => by cases h; decide, by decide, by decide⟩

theorem witness_ResetMeetsTheInvariant : ∀ c, some 2 = some c → [0x04#8, 1#8].length ≤ c := fun c h => by cases h; decide

/-- The indices where the byte registers change from low halves to high ones, and the accessors' bound. -/
theorem witness_ByteReadIsHalfOfItsRegister : (0#3 : Reg3).toNat < 4 ∧ (3#3 : Reg3).toNat < 4 ∧ 4 ≤ (4#3 : Reg3).toNat ∧
    4 ≤ (7#3 : Reg3).toNat := by decide

theorem witness_ByteWriteKeepsTheOtherHalf : ((3#3 : Reg3).toNat < 4 ∧ (7#3 : Reg3) ≠ 3#3) ∧
    (4 ≤ (4#3 : Reg3).toNat ∧ (1#3 : Reg3) ≠ 4#3 - 4#3 ∧ (0#3 : Reg3) ≠ 4#3) := by decide

theorem witness_WordWriteReachesItsHalvesOnly : ((3#3 : Reg3).toNat < 4 ∧ (2#3 : Reg3) ≠ 3#3 ∧ (2#3 : Reg3) ≠ 3#3 + 4#3) ∧
    4 ≤ (4#3 : Reg3).toNat := by decide

theorem witness_AccessorsCheckTheirIndex : 8 ≤ 8 ∧ (7#3 : Reg3).toNat = 7 := by decide

end Sys2Proof.Tests
end

section
/-! PROOFS, family 10_state. The register file: which word register a byte register is half of, and what a byte or word
write leaves alone, through both views (R12 to R14). -/

namespace Sys2Proof.Machine

/-! ## The word register of a byte register -/

/-- The word register that byte register `k` is half of (R12, R13): `REG[k]` below 4, `REG[k - 4]` from 4 on. -/
def wordOf (k : Reg3) : Reg3 := if k.toNat < Config.nhalf then k else k - 4#3

theorem wordOf_lo {k : Reg3} (h : k.toNat < Config.nhalf) : wordOf k = k := if_pos h

theorem wordOf_hi {k : Reg3} (h : ¬ k.toNat < Config.nhalf) : wordOf k = k - 4#3 := if_neg h

theorem wordOf_toNat : ∀ k : Reg3, (wordOf k).toNat = k.toNat % 4 := by decide

/-- Two byte registers of one word register that are both low halves, or both high halves, are the same one. -/
theorem eq_of_wordOf_eq : ∀ j k : Reg3, wordOf j = wordOf k →
    (j.toNat < Config.nhalf ↔ k.toNat < Config.nhalf) → j = k := by
  decide

/-- A word register below 4 is that of two byte registers only. -/
theorem wordOf_ne : ∀ i k : Reg3, k ≠ i → k ≠ i + 4#3 → wordOf k ≠ i := by decide

/-- From index 4 on a word register has no halves (R12). -/
theorem wordOf_ne_of_four_le {i : Reg3} (h : 4 ≤ i.toNat) (k : Reg3) : wordOf k ≠ i := by
  intro he
  have := wordOf_toNat k
  rw [he] at this
  omega

/-- A byte read sees its word register alone. -/
theorem readByte_congr {r r' : Regs} {k : Reg3} (h : readWord r (wordOf k) = readWord r' (wordOf k)) :
    readByte r k = readByte r' k := by
  by_cases hk : k.toNat < Config.nhalf
  · rw [readByte_lo r hk, readByte_lo r' hk, ← wordOf_lo hk, h]
  · rw [readByte_hi r hk, readByte_hi r' hk, ← wordOf_hi hk, h]

/-! ## After a word write -/

theorem readByte_writeWord_lo (r : Regs) {i : Reg3} (v : Word) (h : i.toNat < Config.nhalf) :
    readByte (writeWord r i v) i = loByte v := by
  rw [readByte_lo _ h, readWord_writeWord_same]

theorem readByte_writeWord_hi (r : Regs) {k : Reg3} (v : Word) (h : ¬ k.toNat < Config.nhalf) :
    readByte (writeWord r (k - 4#3) v) k = hiByte v := by
  rw [readByte_hi _ h, readWord_writeWord_same]

theorem readByte_writeWord_other (r : Regs) {i k : Reg3} (v : Word) (h : wordOf k ≠ i) :
    readByte (writeWord r i v) k = readByte r k :=
  readByte_congr (readWord_writeWord_other r v h)

/-! ## After a byte write (R14) -/

theorem readWord_writeByte_lo (r : Regs) {k : Reg3} (v : Byte) (h : k.toNat < Config.nhalf) :
    readWord (writeByte r k v) k = mkWord (hiByte (readWord r k)) v := by
  rw [writeByte_lo r v h, readWord_writeWord_same]

theorem readWord_writeByte_hi (r : Regs) {k : Reg3} (v : Byte) (h : ¬ k.toNat < Config.nhalf) :
    readWord (writeByte r k v) (k - 4#3) = mkWord v (loByte (readWord r (k - 4#3))) := by
  rw [writeByte_hi r v h, readWord_writeWord_same]

theorem readWord_writeByte_other (r : Regs) {j k : Reg3} (v : Byte) (h : j ≠ wordOf k) :
    readWord (writeByte r k v) j = readWord r j := by
  by_cases hk : k.toNat < Config.nhalf
  · rw [wordOf_lo hk] at h
    rw [writeByte_lo r v hk, readWord_writeWord_other r _ h]
  · rw [wordOf_hi hk] at h
    rw [writeByte_hi r v hk, readWord_writeWord_other r _ h]

@[simp] theorem readByte_writeByte_same (r : Regs) (k : Reg3) (v : Byte) : readByte (writeByte r k v) k = v := by
  by_cases hk : k.toNat < Config.nhalf
  · rw [readByte_lo _ hk, readWord_writeByte_lo r v hk, loByte_mkWord]
  · rw [readByte_hi _ hk, readWord_writeByte_hi r v hk, hiByte_mkWord]

/-- The other half of the same register, and the halves of every other one, are kept. -/
theorem readByte_writeByte_other (r : Regs) {j k : Reg3} (v : Byte) (h : j ≠ k) :
    readByte (writeByte r k v) j = readByte r j := by
  by_cases hw : wordOf j = wordOf k
  · have hhalf : ¬ (j.toNat < Config.nhalf ↔ k.toNat < Config.nhalf) := fun hiff => h (eq_of_wordOf_eq j k hw hiff)
    by_cases hk : k.toNat < Config.nhalf
    · have hj : ¬ j.toNat < Config.nhalf := by tauto
      rw [wordOf_lo hk, wordOf_hi hj] at hw
      rw [readByte_hi _ hj, readByte_hi r hj, hw, readWord_writeByte_lo r v hk, hiByte_mkWord]
    · have hj : j.toNat < Config.nhalf := by tauto
      rw [wordOf_hi hk, wordOf_lo hj] at hw
      rw [readByte_lo _ hj, readByte_lo r hj, hw, readWord_writeByte_hi r v hk, loByte_mkWord]
  · exact readByte_congr (readWord_writeByte_other r v hw)

/-! ## The statements about the register file -/

/-- Settles O4: through both views, a byte write reaches one half of one word register. -/
theorem byteWriteKeepsTheOtherHalf : Obligations.ByteWriteKeepsTheOtherHalf := by
  unfold Obligations.ByteWriteKeepsTheOtherHalf
  refine ⟨fun r k v => ⟨fun hlo => ?_, fun hhi => ?_, readByte_writeByte_same r k v,
    fun j hj => readByte_writeByte_other r v hj⟩, fun r => ⟨?_, ?_⟩⟩
  · exact ⟨readWord_writeByte_lo r v hlo, fun j hj => readWord_writeByte_other r v (by rwa [wordOf_lo hlo])⟩
  · have hhi' := Nat.not_lt.2 hhi
    exact ⟨readWord_writeByte_hi r v hhi', fun j hj => readWord_writeByte_other r v (by rwa [wordOf_hi hhi'])⟩
  · exact readByte_writeWord_lo r 0x1234#16 (by decide)
  · exact readByte_writeWord_hi r (k := 5#3) 0x1234#16 (by decide)

/-- Settles O5: only the byte registers whose word register is `i` see the write, and from 4 on there are none. -/
theorem wordWriteReachesItsHalvesOnly : Obligations.WordWriteReachesItsHalvesOnly := by
  unfold Obligations.WordWriteReachesItsHalvesOnly
  intro r i v
  refine ⟨readWord_writeWord_same r i v, fun j hj => readWord_writeWord_other r v hj, fun hlo => ?_,
    fun hhi k => readByte_writeWord_other r v (wordOf_ne_of_four_le hhi k)⟩
  have hhi : ∀ i : Reg3, i.toNat < 4 → ¬ (i + 4#3).toNat < Config.nhalf := by decide
  refine ⟨readByte_writeWord_lo r v hlo, ?_, fun k hk hk' => readByte_writeWord_other r v (wordOf_ne i k hk hk')⟩
  have hread := readByte_writeWord_hi r v (hhi i hlo)
  rwa [BitVec.add_sub_cancel] at hread

/-- Settles O3: the model's `k - 4` on 3 bits is the natural number's from 4 on. -/
theorem byteReadIsHalfOfItsRegister : Obligations.ByteReadIsHalfOfItsRegister := by
  unfold Obligations.ByteReadIsHalfOfItsRegister
  have hsub : ∀ k : Reg3, 4 ≤ k.toNat → BitVec.ofNat 3 (k.toNat - 4) = k - 4#3 := by decide
  refine fun r k => ⟨fun hlo => readByte_lo r hlo, fun hhi => ?_⟩
  rw [hsub k hhi]
  exact readByte_hi r (Nat.not_lt.2 hhi)

/-- Settles O48: the three tables evaluate; names are compared at their 16 pairs of index and width. -/
theorem operandNamesAreTheTables : Obligations.OperandNamesAreTheTables := by
  unfold Obligations.OperandNamesAreTheTables
  exact ⟨by decide, by decide, by decide, rfl, rfl, by decide⟩

end Sys2Proof.Machine
end
section
/-! PROOFS, family 10_state. What one instruction leaves, said once for all 56: `exec` is `retire` of the record, then
`Apply` of it. -/

namespace Sys2Proof.Machine

/-! ## `exec` is `retire` and `Apply` of the record (R110, R114) -/

/-- A class 2 record at byte width writes `al`, where the operation writes at all (R147). -/
theorem applyRecord_acc8 {op : Op} {a : ArithOp} (h : arithOp? op = some a) (mode : AccApply) (n : Nat) (v : Word)
    (r : Regs) : applyRecord mode (recArithImmAcc op false n v) r =
      (accResult mode a (readByte r 0#3) (loByte v)).elim r (writeByte r 0#3) := by
  simp only [applyRecord, applyAccRecord, recArithImmAcc, h]
  cases accResult mode a (readByte r 0#3) (loByte v) <;> rfl

/-- A class 2 record at word width writes `ax`, where the operation writes at all (R147). -/
theorem applyRecord_acc16 {op : Op} {a : ArithOp} (h : arithOp? op = some a) (mode : AccApply) (n : Nat) (v : Word)
    (r : Regs) : applyRecord mode (recArithImmAcc op true n v) r =
      (accResult mode a (readWord r 0#3) v).elim r (writeWord r 0#3) := by
  simp only [applyRecord, applyAccRecord, recArithImmAcc, h]
  cases accResult mode a (readWord r 0#3) v <;> rfl

/-- Class 2 on `al` applies what its record says. -/
theorem applyAcc8_retire {op : Op} {a : ArithOp} (h : arithOp? op = some a) (n : Nat) (imm : Byte) (s : State) :
    applyAcc8 a imm (retire (recArithImmAcc op false n (zext16 imm)) s) =
      (retire (recArithImmAcc op false n (zext16 imm)) s).setRegs
        (applyRecord s.cfg.accApply (recArithImmAcc op false n (zext16 imm)) s.regs) := by
  rw [applyAcc8_eq, applyRecord_acc8 h, loByte_zext16, retire_regs, retire_cfg]
  cases accResult s.cfg.accApply a (readByte s.regs 0#3) imm <;> rfl

/-- Class 2 on `ax` applies what its record says. -/
theorem applyAcc16_retire {op : Op} {a : ArithOp} (h : arithOp? op = some a) (n : Nat) (imm : Word) (s : State) :
    applyAcc16 a imm (retire (recArithImmAcc op true n imm) s) =
      (retire (recArithImmAcc op true n imm) s).setRegs
        (applyRecord s.cfg.accApply (recArithImmAcc op true n imm) s.regs) := by
  rw [applyAcc16_eq, applyRecord_acc16 h, retire_regs, retire_cfg]
  cases accResult s.cfg.accApply a (readWord s.regs 0#3) imm <;> rfl

/-- Class 1 on a byte half applies what its record says. -/
theorem applyMov8_retire (reg : Reg3) (n : Nat) (imm : Byte) (s : State) :
    applyMov8 reg imm (retire (recMovImmReg false reg n (zext16 imm)) s) =
      (retire (recMovImmReg false reg n (zext16 imm)) s).setRegs
        (applyRecord s.cfg.accApply (recMovImmReg false reg n (zext16 imm)) s.regs) := by
  simp [applyMov8, applyRecord, applyMovRecord, recMovImmReg]

/-- Every instruction completes: it retires its record, then applies it to the registers. -/
theorem exec_eq (i : Instr) (s : State) :
    exec i s = .next ((retire i.record s).setRegs (applyRecord s.cfg.accApply i.record s.regs)) := by
  cases i
  case movReg8Imm8 reg imm => exact congrArg _ (applyMov8_retire reg 1 imm s)
  case addAlImm8 imm => exact congrArg _ (applyAcc8_retire rfl 1 imm s)
  case subAlImm8 imm => exact congrArg _ (applyAcc8_retire rfl 1 imm s)
  case cmpAlImm8 imm => exact congrArg _ (applyAcc8_retire rfl 1 imm s)
  case addAxImm16 imm => exact congrArg _ (applyAcc16_retire rfl 2 imm s)
  case subAxImm16 imm => exact congrArg _ (applyAcc16_retire rfl 2 imm s)
  case cmpAxImm16 imm => exact congrArg _ (applyAcc16_retire rfl 2 imm s)
  all_goals rfl

/-! ## The line of an instruction is no debug line (R211, R224) -/

/-- A line that begins with a mnemonic is no debug line: no mnemonic begins with `;`. -/
theorem isDebugLine_opText_append (op : Op) (rest : Text) : isDebugLine (opText op ++ rest) = false := by
  cases op <;> simp [isDebugLine, opText, String.toList_append]

/-- An instruction's line is its mnemonic and more. -/
theorem render_eq_opText_append (i : Instr) : ∃ rest, render i.record = opText i.record.op ++ rest := by
  obtain ⟨w, reg, n, v, h⟩ | ⟨op, w, n, v, h⟩ | ⟨op, s, w, rm, n, v, h⟩ | ⟨op, d, w, rm, reg, h⟩ |
    ⟨tag, op, disp, htag, h⟩ := record_cases i <;> rw [h]
  · exact ⟨_, by simp only [render, recMovImmReg, String.append_assoc]; rfl⟩
  · exact ⟨_, by simp only [render, recArithImmAcc, String.append_assoc]; rfl⟩
  · cases rm <;> exact ⟨_, by
      simp only [render, renderArithImmRm, recArithImmRm, RmOperand.mode, String.append_assoc]; rfl⟩
  · cases d <;> exact ⟨_, by simp only [render, renderRmReg, recRmReg, String.append_assoc]; rfl⟩
  · obtain rfl | rfl := htag <;> exact ⟨_, by simp only [render, renderJump, recJump, String.append_assoc]; rfl⟩

theorem isDebugLine_render (i : Instr) : isDebugLine (render i.record) = false := by
  obtain ⟨rest, h⟩ := render_eq_opText_append i
  rw [h, isDebugLine_opText_append]

/-- What executing an instruction does to every part of the state (R110). -/
theorem exec_retired {i : Instr} {s t : State} (h : exec i s = .next t) :
    Retired s t i.record.length (render i.record) (applyRecord s.cfg.accApply i.record s.regs) := by
  rw [exec_eq] at h
  cases h
  exact (retire_retired i.record s (isDebugLine_render i)).setRegs _

end Sys2Proof.Machine
end

section
/-! PROOFS, family 10_state. The decoder never reads past its bytes: the instruction it answers is no longer than the
bytes it was given, one lemma per function of the decoder (R44, R106). -/

namespace Sys2Proof

/-! ## The length of the instruction each constructor function builds (R75) -/

@[simp] theorem accInstr8_length (op : ArithOp) (imm : Byte) : (accInstr8 op imm).record.length = 2 := by
  cases op <;> rfl

@[simp] theorem accInstr16_length (op : ArithOp) (imm : Word) : (accInstr16 op imm).record.length = 3 := by
  cases op <;> rfl

@[simp] theorem rmInstr8_length (op : ArithOp) (s w : Bool) (rm : RmOperand) (imm : Byte) :
    (rmInstr8 op s w rm imm).record.length = 2 + rm.dispSize + 1 := by
  cases op <;> cases w <;> cases s <;> rfl

@[simp] theorem rmInstr16_length (op : ArithOp) (rm : RmOperand) (imm : Word) :
    (rmInstr16 op rm imm).record.length = 2 + rm.dispSize + 2 := by
  cases op <;> rfl

@[simp] theorem rmRegInstr_length (op : RmRegOp) (d w : Bool) (rm : RmOperand) (reg : Reg3) :
    (rmRegInstr op d w rm reg).record.length = 2 + rm.dispSize := by
  cases op <;> cases d <;> cases w <;> rfl

/-- Every jump and loop has two bytes (R82). -/
theorem jump?_length {b0 disp : Byte} {i : Instr} (h : jump? b0 disp = some i) : i.record.length = 2 := by
  unfold jump? at h
  split at h <;> cases h <;> rfl

/-! ## The operand takes its displacement bytes and leaves the rest -/

theorem rmOperand4_length {mod : BitVec 2} {rm : Reg3} {rest more : List Byte} {operand : RmOperand}
    (h : rmOperand4 mod rm rest = some (operand, more)) : operand.dispSize + more.length = rest.length := by
  unfold rmOperand4 at h
  split at h
  · cases h; simp [RmOperand.dispSize]
  · split at h
    · split at h <;> cases h
      simp [RmOperand.dispSize]; omega
    · split at h
      · split at h <;> cases h
        simp [RmOperand.dispSize]; omega
      · cases h; simp [RmOperand.dispSize]

theorem rmOperand3_length {mod : BitVec 2} {rm : Reg3} {rest more : List Byte} {operand : RmOperand}
    (h : rmOperand3 mod rm rest = some (operand, more)) : operand.dispSize + more.length = rest.length := by
  unfold rmOperand3 at h
  split at h
  · split at h <;> cases h
    simp [RmOperand.dispSize]; omega
  · exact rmOperand4_length h

/-! ## The five classes -/

theorem decodeMovImmReg_length {w : Bool} {reg : Reg3} {rest : List Byte} {i : Instr}
    (h : decodeMovImmReg w reg rest = .ok i) : i.record.length ≤ rest.length + 1 := by
  unfold decodeMovImmReg at h
  split at h <;> cases h <;> simp [Instr.record, recMovImmReg]

theorem decodeArithImmAcc_length {op : ArithOp} {w : Bool} {rest : List Byte} {i : Instr}
    (h : decodeArithImmAcc op w rest = .ok i) : i.record.length ≤ rest.length + 1 := by
  unfold decodeArithImmAcc at h
  split at h <;> cases h <;> simp

theorem decodeArithImmRm_length {op : ArithOp} {s w : Bool} {mod : BitVec 2} {rm : Reg3} {rest : List Byte} {i : Instr}
    (h : decodeArithImmRm op s w mod rm rest = .ok i) : i.record.length ≤ rest.length + 2 := by
  unfold decodeArithImmRm at h
  split at h
  · cases h
  · have hlen := rmOperand3_length ‹_›
    split at h <;> split at h <;> cases h <;> simp at hlen ⊢ <;> omega

theorem decodeRmReg_length {op : RmRegOp} {d w : Bool} {mod : BitVec 2} {reg rm : Reg3} {rest : List Byte} {i : Instr}
    (h : decodeRmReg op d w mod reg rm rest = .ok i) : i.record.length ≤ rest.length + 2 := by
  unfold decodeRmReg at h
  split at h <;> cases h
  have hlen := rmOperand4_length ‹_›
  simp; omega

theorem decodeClass3_length {b0 : Byte} {rest : List Byte} {i : Instr} (h : decodeClass3 b0 rest = .ok i) :
    i.record.length ≤ rest.length + 1 := by
  unfold decodeClass3 at h
  split at h
  · cases h
  · split at h
    · exact decodeArithImmRm_length h
    · cases h

theorem decodeClass4_length {op : RmRegOp} {b0 : Byte} {rest : List Byte} {i : Instr}
    (h : decodeClass4 op b0 rest = .ok i) : i.record.length ≤ rest.length + 1 := by
  unfold decodeClass4 at h
  split at h
  · cases h
  · exact decodeRmReg_length h

theorem decodeClass5_length {b0 : Byte} {rest : List Byte} {i : Instr} (h : decodeClass5 b0 rest = .ok i) :
    i.record.length ≤ rest.length + 1 := by
  unfold decodeClass5 at h
  split at h
  · split at h <;> cases h
  · split at h <;> cases h
    have hlen := jump?_length ‹_›
    simp; omega

/-! ## The whole decoder -/

/-- A decoded instruction is no longer than the bytes it was decoded from. -/
theorem decodeBytes_length {bytes : List Byte} {i : Instr} (h : decodeBytes bytes = .ok i) :
    i.record.length ≤ bytes.length := by
  cases bytes with
  | nil => cases h
  | cons b0 rest =>
    change decodeFrom b0 rest = .ok i at h
    unfold decodeFrom at h
    split at h
    · exact decodeMovImmReg_length h
    · split at h
      · exact decodeArithImmAcc_length h
      · split at h
        · exact decodeClass3_length h
        · split at h
          · exact decodeClass4_length h
          · exact decodeClass5_length h

theorem record_length_pos (i : Instr) : 0 < i.record.length := by
  obtain ⟨w, reg, n, v, h⟩ | ⟨op, w, n, v, h⟩ | ⟨op, s, w, rm, n, v, h⟩ | ⟨op, d, w, rm, reg, h⟩ |
    ⟨tag, op, disp, htag, h⟩ := record_cases i <;> rw [h]
  · simp only [recMovImmReg]; omega
  · simp only [recArithImmAcc]; omega
  · simp only [recArithImmRm]; omega
  · simp only [recRmReg]; omega
  · exact Nat.two_pos

end Sys2Proof

namespace Sys2Proof.Machine

theorem decodeAt_ok_iff {m : Memory} {c : Nat} {i : Instr} :
    decodeAt m c = .ok i ↔ decodeBytes (m.window c Config.maxLen) = .ok i := by
  unfold decodeAt
  split <;> simp_all

/-- A decoded instruction ends within the stream (R44, R115). -/
theorem decodeAt_ok_end_le {m : Memory} {c : Nat} {i : Instr} (h : decodeAt m c = .ok i) :
    c + i.record.length ≤ m.len := by
  have hlen := decodeBytes_length (decodeAt_ok_iff.1 h)
  rw [window_length] at hlen
  have := record_length_pos i
  omega

/-- A latched decode error names the cursor (R240); it is never the register accessors' error (R243). -/
theorem decodeAt_err_offset {m : Memory} {c : Nat} {e : ErrorRecord} (h : decodeAt m c = .err e) :
    e.offset = some c := by
  obtain ⟨i, -, hd⟩ | ⟨b, -, hd⟩ | ⟨n, -, hd⟩ := decodeAt_cases m c <;> rw [hd] at h <;> cases h <;> rfl

end Sys2Proof.Machine
end

section
/-! PROOFS, family 10_state. A step by its cases: what it answers in each, and the statements about every step. -/

namespace Sys2Proof.Machine

/-! ## What `step` answers in each case (R110); `step_cases` is the way back -/

theorem step_of_not_withinCap {s : State} (h : s.withinCap = false) : step s = .refused .bufferExceedsCap := by
  simp [step, h]

section
variable {s : State} (hcap : s.withinCap = true)
include hcap

theorem step_of_done (h : s.phase = .done) : step s = .fault .noStepInDone := by
  simp [step, hcap, h]

theorem step_of_failed (h : s.phase = .failed) : step s = .fault .noStepInFailed := by
  simp [step, hcap, h]

variable (hrun : s.phase = .running)
include hrun

theorem step_of_end (h : s.cur = s.buf.len) : step s = .next s.finish := by
  simp [step, hcap, hrun, h]

variable (hne : s.cur ≠ s.buf.len)
include hne

theorem step_of_err {e : ErrorRecord} (h : decodeAt s.buf s.cur = .err e) : step s = .next (s.raiseError e) := by
  simp [step, hcap, hrun, hne, h]

theorem step_of_ok {i : Instr} (h : decodeAt s.buf s.cur = .ok i) : step s = exec i s := by
  simp [step, hcap, hrun, hne, h]

end

/-- A running pass within the cap takes a step. -/
theorem step_of_running {s : State} (hcap : s.withinCap = true) (hrun : s.phase = .running) : ∃ t, step s = .next t := by
  by_cases hend : s.cur = s.buf.len
  · exact ⟨_, step_of_end hcap hrun hend⟩
  · cases hd : decodeAt s.buf s.cur with
    | ok i => exact ⟨_, (step_of_ok hcap hrun hend hd).trans (exec_eq i s)⟩
    | err e => exact ⟨_, step_of_err hcap hrun hend hd⟩

theorem withinCap_congr {s t : State} (hcfg : t.cfg = s.cfg) (hbuf : t.buf = s.buf) : t.withinCap = s.withinCap := by
  unfold State.withinCap
  rw [hcfg, hbuf]

/-! ## The invariant -/

theorem phaseOk_running {s : State} (h : s.phase = .running) : PhaseOk s ↔ s.err = none := by
  simp [PhaseOk, h]

theorem phaseOk_done {s : State} (h : s.phase = .done) : PhaseOk s ↔ s.err = none ∧ s.cur = s.buf.len := by
  simp [PhaseOk, h]

theorem phaseOk_failed {s : State} (h : s.phase = .failed) :
    PhaseOk s ↔ ∃ e, s.err = some e ∧ e.offset = some s.cur ∧ s.cur < s.buf.len ∧ decodeAt s.buf s.cur = .err e := by
  simp [PhaseOk, h]

theorem inv_finish {s : State} (hinv : s.Inv) (hrun : s.phase = .running) (hend : s.cur = s.buf.len) : s.finish.Inv := by
  obtain ⟨hwf, hcap, hcur, hout, hphase⟩ := hinv
  have herr := (phaseOk_running hrun).1 hphase
  exact ⟨hwf, hcap, hcur, hout, (phaseOk_done rfl).2 ⟨herr, hend⟩⟩

theorem inv_raiseError {s : State} {e : ErrorRecord} (hinv : s.Inv) (hne : s.cur ≠ s.buf.len)
    (hd : decodeAt s.buf s.cur = .err e) : (s.raiseError e).Inv := by
  obtain ⟨hwf, hcap, hcur, hout, -⟩ := hinv
  have hlt : s.cur < s.buf.len := by omega
  exact ⟨hwf, hcap, hcur, hout, (phaseOk_failed rfl).2 ⟨e, rfl, decodeAt_err_offset hd, hlt, hd⟩⟩

/-- The cursor stays within the stream because a decoded instruction ends within it. -/
theorem inv_exec {s t : State} {i : Instr} (hinv : s.Inv) (hrun : s.phase = .running)
    (hd : decodeAt s.buf s.cur = .ok i) (hx : exec i s = .next t) : t.Inv := by
  obtain ⟨hwf, hcap, -, hout, hphase⟩ := hinv
  obtain ⟨hcur', -, hout', -, -, hphase', herr', hcfg', hbuf'⟩ := exec_retired hx
  have hend := decodeAt_ok_end_le hd
  have herr := (phaseOk_running hrun).1 hphase
  refine ⟨hbuf' ▸ hwf, (withinCap_congr hcfg' hbuf').trans hcap, ?_, hout.trans hout', ?_⟩
  · rw [hcur', hbuf']; exact hend
  · exact (phaseOk_running (hphase'.trans hrun)).2 (herr'.trans herr)

/-- Settles O52: each of the three ends of a step keeps the invariant. -/
theorem everyStepKeepsTheInvariant : Obligations.EveryStepKeepsTheInvariant := by
  unfold Obligations.EveryStepKeepsTheInvariant
  intro s t hinv hstep
  obtain ⟨-, hrun, ⟨hend, rfl⟩ | ⟨hne, e, hd, rfl⟩ | ⟨-, i, hd, hx⟩⟩ := step_cases hstep
  · exact inv_finish hinv hrun hend
  · exact inv_raiseError hinv hne hd
  · exact inv_exec hinv hrun hd hx

/-! ## What every step keeps, and the output -/

/-- No step writes the stream or the configuration (R21, R46). -/
theorem step_buf_cfg {s t : State} (h : step s = .next t) : t.buf = s.buf ∧ t.cfg = s.cfg := by
  obtain ⟨-, -, ⟨-, rfl⟩ | ⟨-, e, -, rfl⟩ | ⟨-, i, -, hx⟩⟩ := step_cases h
  · exact ⟨rfl, rfl⟩
  · exact ⟨rfl, rfl⟩
  · obtain ⟨-, -, -, -, -, -, -, hcfg, hbuf⟩ := exec_retired hx
    exact ⟨hbuf, hcfg⟩

/-- Settles O54: no end of a step writes either field. -/
theorem configurationAndStreamAreConstant : Obligations.ConfigurationAndStreamAreConstant := by
  unfold Obligations.ConfigurationAndStreamAreConstant
  refine ⟨fun s t h => ?_, hostReset_cfg, fun _ _ _ _ => rfl, rfl⟩
  obtain ⟨hbuf, hcfg⟩ := step_buf_cfg h
  exact ⟨fun a => congrArg (·.read a) hbuf, congrArg Memory.len hbuf, hbuf, hcfg⟩

/-- Settles O51: the phase stays Running exactly when an instruction runs, and only then is a line printed. -/
theorem outputGrowsOneLineAStep : Obligations.OutputGrowsOneLineAStep := by
  unfold Obligations.OutputGrowsOneLineAStep
  intro s t h
  obtain ⟨-, hrun, ⟨-, rfl⟩ | ⟨-, e, -, rfl⟩ | ⟨-, i, -, hx⟩⟩ := step_cases h
  · exact ⟨List.prefix_refl _, nofun, fun _ => rfl⟩
  · exact ⟨List.prefix_refl _, nofun, fun _ => rfl⟩
  · obtain ⟨-, -, hout, hlines, hplain, hphase, -⟩ := exec_retired hx
    exact ⟨hout, fun _ => ⟨_, hlines, fun hd => (hplain hd).1⟩, fun hne => absurd (hphase.trans hrun) hne⟩

/-! ## Where no step exists -/

/-- Within the cap, the phase alone decides what `step` answers (R18). -/
theorem step_fault_iff {s : State} (hcap : s.withinCap = true) :
    (step s = .fault .noStepInDone ↔ s.phase = .done) ∧ (step s = .fault .noStepInFailed ↔ s.phase = .failed) := by
  cases hp : s.phase with
  | running =>
    obtain ⟨t, ht⟩ := step_of_running hcap hp
    simp [ht]
  | done => simp [step_of_done hcap hp]
  | failed => simp [step_of_failed hcap hp]

/-- The cap is the only thing a step is refused for (R25). -/
theorem step_ne_refused {s : State} (hcap : s.withinCap = true) (q : Refusal) : step s ≠ .refused q := by
  cases hp : s.phase with
  | running =>
    obtain ⟨t, ht⟩ := step_of_running hcap hp
    simp [ht]
  | done => simp [step_of_done hcap hp]
  | failed => simp [step_of_failed hcap hp]

/-- Settles O33: within the cap the phase decides, and above it the refusal comes before the phase is looked at. -/
theorem noStepAfterThePassEnds : Obligations.NoStepAfterThePassEnds := by
  unfold Obligations.NoStepAfterThePassEnds
  intro s
  refine ⟨fun hcap => ⟨(step_fault_iff hcap).1, (step_fault_iff hcap).2, step_of_running hcap⟩,
    ⟨step_of_not_withinCap, fun h => ?_⟩, hostReset_phase s⟩
  by_contra hcap
  exact step_ne_refused (Bool.eq_true_of_not_eq_false hcap) _ h

/-! ## Registers reach only registers -/

/-- Another register file passes through an instruction: only `Apply` sees it (R24, R114). -/
theorem exec_setRegs {i : Instr} {s t : State} (r : Regs) (h : exec i s = .next t) :
    exec i (s.setRegs r) = .next (t.setRegs (applyRecord s.cfg.accApply i.record r)) := by
  rw [exec_eq] at h
  cases h
  exact exec_eq i (s.setRegs r)

/-- `Apply` of a record outside classes 1 and 2 does nothing (R114). -/
theorem applyRecord_of_other_class {D : Record} (mode : AccApply) (r : Regs) (hmov : D.classTag ≠ .immToRegMov)
    (hacc : D.classTag ≠ .immToAccArith) : applyRecord mode D r = r := by
  unfold applyRecord
  split
  · exact absurd ‹_› hmov
  · exact absurd ‹_› hacc
  all_goals rfl

/-- A step that completes completes under any other register file, and the rest of the state does not see it. -/
theorem step_setRegs_next {s t : State} (r : Regs) (h : step s = .next t) :
    step (s.setRegs r) = .next (t.setRegs
      (if s.cur = s.buf.len then r else
        match decodeAt s.buf s.cur with
        | .ok i => applyRecord s.cfg.accApply i.record r
        | .err _ => r)) := by
  obtain ⟨hcap, hrun, ⟨hend, rfl⟩ | ⟨hne, e, hd, rfl⟩ | ⟨hne, i, hd, hx⟩⟩ := step_cases h
  · rw [if_pos hend]
    exact step_of_end (s := s.setRegs r) hcap hrun hend
  · rw [if_neg hne, hd]
    exact step_of_err (s := s.setRegs r) hcap hrun hne hd
  · rw [if_neg hne, hd]
    exact (step_of_ok (s := s.setRegs r) hcap hrun hne hd).trans (exec_setRegs r hx)

/-- A step that stops stops alike under any other register file. -/
theorem step_setRegs_of_not_next {s : State} (r : Regs) (h : ∀ t, step s ≠ .next t) : step (s.setRegs r) = step s := by
  by_cases hcap : s.withinCap = true
  · cases hp : s.phase with
    | running =>
      obtain ⟨t, ht⟩ := step_of_running hcap hp
      exact absurd ht (h t)
    | done => exact (step_of_done (s := s.setRegs r) hcap hp).trans (step_of_done hcap hp).symm
    | failed => exact (step_of_failed (s := s.setRegs r) hcap hp).trans (step_of_failed hcap hp).symm
  · have hcap' := Bool.eq_false_of_not_eq_true hcap
    exact (step_of_not_withinCap (s := s.setRegs r) hcap').trans (step_of_not_withinCap hcap').symm

/-- Settles O29: decoding reads the stream and the cursor alone, so another register file meets the same case of `step`. -/
theorem registersReachOnlyRegisters : Obligations.RegistersReachOnlyRegisters := by
  unfold Obligations.RegistersReachOnlyRegisters
  refine ⟨fun s r => ⟨fun t h => step_setRegs_next r h, fun f h => ?_, fun q h => ?_⟩,
    fun mode i r => applyRecord_of_other_class mode r⟩
  · exact (step_setRegs_of_not_next r (by simp [h])).trans h
  · exact (step_setRegs_of_not_next r (by simp [h])).trans h

end Sys2Proof.Machine
end

section
/-! PROOFS, family 10_state. The accessors, the state after reset and at the start of a pass, and the frame of every
instruction. -/

namespace Sys2Proof.Machine

/-! ## The accessors (R15) -/

/-- Inside 0..7 each accessor is the register file's own operation. -/
theorem accessors_in_range (r : Regs) (i : Reg3) (v : Word) (b : Byte) :
    getWord r i.toNat = .value (readWord r i) ∧ setWord r i.toNat v = .value (writeWord r i v) ∧
      getByte r i.toNat = .value (readByte r i) ∧ setByte r i.toNat b = .value (writeByte r i b) := by
  have hi : i.toNat < Config.nreg := i.isLt
  simp [getWord, setWord, getByte, setByte, hi]

/-- Outside 0..7 each accessor answers the error and no register file. -/
theorem accessors_out_of_range (r : Regs) {n : Nat} (v : Word) (b : Byte) (h : 8 ≤ n) :
    getWord r n = .error .registerIndexOutOfRange ∧ setWord r n v = .error .registerIndexOutOfRange ∧
      getByte r n = .error .registerIndexOutOfRange ∧ setByte r n b = .error .registerIndexOutOfRange := by
  have hn : ¬ n < Config.nreg := Nat.not_lt.2 h
  simp [getWord, setWord, getByte, setByte, hn]

/-- Settles O6: decoding never answers the accessors' error, because its errors name an offset. -/
theorem accessorsCheckTheirIndex : Obligations.AccessorsCheckTheirIndex := by
  unfold Obligations.AccessorsCheckTheirIndex
  refine ⟨accessors_in_range, fun r n v b h => accessors_out_of_range r v b h, fun m c h => ?_⟩
  have hoff := decodeAt_err_offset h
  cases hoff

/-! ## Reset and the start of a pass (R31, R270, R272) -/

@[simp] theorem readWord_replicate (v : Word) (i : Reg3) : readWord (Vector.replicate 8 v) i = v := by
  simp [readWord]

theorem readByte_zero (k : Reg3) : readByte (Vector.replicate 8 0#16) k = 0#8 := by
  unfold readByte
  split <;> rw [readWord_replicate] <;> rfl

/-- Settles O1: every half of a zero word is zero; the other fields are those `hostReset` names. -/
theorem resetLeavesTheStatedValues : Obligations.ResetLeavesTheStatedValues := by
  unfold Obligations.ResetLeavesTheStatedValues
  exact fun s => ⟨⟨readWord_replicate 0#16, readByte_zero, rfl, rfl, rfl, rfl, rfl, rfl⟩,
    ⟨readWord_replicate 0#16, readByte_zero, rfl, rfl, rfl, rfl, rfl⟩⟩

/-- A host reset of a canonical stream within the cap meets the invariant. -/
theorem inv_hostReset {s : State} (hwf : s.buf.wf = true) (hcap : s.withinCap = true) : s.hostReset.Inv :=
  ⟨hwf, hcap, Nat.zero_le _, List.prefix_refl _, (phaseOk_running rfl).2 rfl⟩

/-- After a host reset nothing of the stream has been scanned. -/
theorem swept_hostReset (s : State) : s.hostReset.Swept := ⟨[], rfl, rfl, rfl⟩

/-- The state after reset is its own reset. -/
theorem hostReset_reset : State.reset.hostReset = State.reset := rfl

/-- Settles O2: both states are host resets. -/
theorem resetMeetsTheInvariant : Obligations.ResetMeetsTheInvariant := by
  unfold Obligations.ResetMeetsTheInvariant
  refine ⟨⟨?_, ?_⟩, fun s cap debug bytes hfit => ⟨inv_hostReset (ofBytes_wf bytes) ?_, swept_hostReset _⟩⟩
  · exact hostReset_reset ▸ inv_hostReset reset_buf_wf rfl
  · exact hostReset_reset ▸ swept_hostReset State.reset
  · cases cap with
    | none => rfl
    | some c => simpa [State.withinCap] using hfit c rfl

/-! ## The frame of every instruction -/

/-- Class 2 at byte width changes `al` at most: every other word and byte register is kept. -/
theorem applyRecord_acc8_frame {op : Op} {a : ArithOp} (h : arithOp? op = some a) (mode : AccApply) (n : Nat) (v : Word)
    (r : Regs) :
    (∀ j, j ≠ 0#3 → readWord (applyRecord mode (recArithImmAcc op false n v) r) j = readWord r j) ∧
      ∀ k, k ≠ 0#3 → readByte (applyRecord mode (recArithImmAcc op false n v) r) k = readByte r k := by
  rw [applyRecord_acc8 h]
  cases accResult mode a (readByte r 0#3) (loByte v) with
  | none => exact ⟨fun _ _ => rfl, fun _ _ => rfl⟩
  | some x => exact ⟨fun j hj => readWord_writeByte_other r x hj, fun k hk => readByte_writeByte_other r x hk⟩

/-- Class 2 at word width changes `ax` at most. -/
theorem applyRecord_acc16_frame {op : Op} {a : ArithOp} (h : arithOp? op = some a) (mode : AccApply) (n : Nat) (v : Word)
    (r : Regs) (j : Reg3) (hj : j ≠ 0#3) :
    readWord (applyRecord mode (recArithImmAcc op true n v) r) j = readWord r j := by
  rw [applyRecord_acc16 h]
  cases accResult mode a (readWord r 0#3) v with
  | none => rfl
  | some x => exact readWord_writeWord_other r x hj

/-- Class 1 at byte width changes one half: every other word register and every other byte register is kept. -/
theorem applyRecord_mov8_frame (mode : AccApply) (reg : Reg3) (n : Nat) (v : Word) (r : Regs) :
    (∀ j : Reg3, j.toNat ≠ reg.toNat % 4 →
        readWord (applyRecord mode (recMovImmReg false reg n v) r) j = readWord r j) ∧
      ∀ k, k ≠ reg → readByte (applyRecord mode (recMovImmReg false reg n v) r) k = readByte r k := by
  refine ⟨fun j hj => readWord_writeByte_other r _ ?_, fun k hk => readByte_writeByte_other r _ hk⟩
  rintro rfl
  exact hj (wordOf_toNat reg)

/-- Settles O28: the retired part is the same for all; the registers follow the record's class. -/
theorem frameOfEveryInstruction : Obligations.FrameOfEveryInstruction := by
  unfold Obligations.FrameOfEveryInstruction
  intro i s t h
  obtain ⟨-, hregs, hout, -, hplain, hphase, herr, hcfg, hbuf⟩ := exec_retired h
  refine ⟨⟨fun a => congrArg (·.read a) hbuf, hbuf, hcfg, hphase, herr, hout, fun hd => (hplain hd).2⟩, ?_⟩
  rw [hregs]
  cases i
  case movReg16Imm16 reg v => exact fun j hj => readWord_writeWord_other s.regs v hj
  case movReg8Imm8 reg v => exact applyRecord_mov8_frame _ reg 1 _ s.regs
  case addAlImm8 | subAlImm8 | cmpAlImm8 => exact applyRecord_acc8_frame rfl _ 1 _ s.regs
  case addAxImm16 | subAxImm16 | cmpAxImm16 => exact applyRecord_acc16_frame rfl _ 2 _ s.regs
  all_goals rfl

end Sys2Proof.Machine
end

section
/-! PROOFS, family 30_encoding. The decoder's five first-byte tests are disjoint (R101, R102): which class decodes the
bytes is read off the first byte alone. Then the two ways of being unrecognised (R85, R86). -/

namespace Sys2Proof

/-! ## Which class a first byte selects -/

theorem decodeBytes_class1 {b0 : Byte} (h : field b0 4 4 = 0b1011#4) (rest : List Byte) :
    decodeBytes (b0 :: rest) = decodeMovImmReg (bit b0 3) (field b0 0 3) rest := if_pos h

/-- No class 2 byte passes the test before (R102). -/
theorem not_class1_of_accOp? : ∀ b0 : Byte, (accOp? (field b0 1 7)).isSome → field b0 4 4 ≠ 0b1011#4 := by decide

theorem decodeBytes_class2 {b0 : Byte} {op : ArithOp} (h : accOp? (field b0 1 7) = some op) (rest : List Byte) :
    decodeBytes (b0 :: rest) = decodeArithImmAcc op (bit b0 0) rest := by
  have h1 := not_class1_of_accOp? b0 (by simp [h])
  simp [decodeBytes, decodeFrom, h1, h]

/-- No class 3 byte passes the tests before (R102). -/
theorem not_class12_of_class3 : ∀ b0 : Byte, field b0 2 6 = 0b100000#6 →
    field b0 4 4 ≠ 0b1011#4 ∧ accOp? (field b0 1 7) = none := by decide

theorem decodeBytes_class3 {b0 : Byte} (h : field b0 2 6 = 0b100000#6) (rest : List Byte) :
    decodeBytes (b0 :: rest) = decodeClass3 b0 rest := by
  obtain ⟨h1, h2⟩ := not_class12_of_class3 b0 h
  simp [decodeBytes, decodeFrom, h1, h2, h]

/-- No class 4 byte passes the tests before (R102). -/
theorem not_class123_of_rmRegOp? : ∀ b0 : Byte, (rmRegOp? (field b0 2 6)).isSome →
    field b0 4 4 ≠ 0b1011#4 ∧ accOp? (field b0 1 7) = none ∧ field b0 2 6 ≠ 0b100000#6 := by decide

theorem decodeBytes_class4 {b0 : Byte} {op : RmRegOp} (h : rmRegOp? (field b0 2 6) = some op) (rest : List Byte) :
    decodeBytes (b0 :: rest) = decodeClass4 op b0 rest := by
  obtain ⟨h1, h2, h3⟩ := not_class123_of_rmRegOp? b0 (by simp [h])
  simp [decodeBytes, decodeFrom, h1, h2, h3, h]

/-- Class 5 is what is left when the other four tests fail. -/
theorem decodeBytes_class5 {b0 : Byte} (h1 : field b0 4 4 ≠ 0b1011#4) (h2 : accOp? (field b0 1 7) = none)
    (h3 : field b0 2 6 ≠ 0b100000#6) (h4 : rmRegOp? (field b0 2 6) = none) (rest : List Byte) :
    decodeBytes (b0 :: rest) = decodeClass5 b0 rest := by
  simp [decodeBytes, decodeFrom, h1, h2, h3, h4]

/-- Whether a first byte is a jump or loop opcode does not depend on the displacement (R82). -/
theorem isSome_jump? (b0 disp : Byte) : (jump? b0 disp).isSome = (jump? b0 0#8).isSome := by
  unfold jump?
  split <;> rfl

/-- No jump or loop opcode passes the tests before (R102). -/
theorem not_class1234_of_jump? : ∀ b0 : Byte, (jump? b0 0#8).isSome →
    field b0 4 4 ≠ 0b1011#4 ∧ accOp? (field b0 1 7) = none ∧ field b0 2 6 ≠ 0b100000#6 ∧
      rmRegOp? (field b0 2 6) = none := by decide

theorem decodeBytes_jump {b0 disp : Byte} {i : Instr} (h : jump? b0 disp = some i) (rest : List Byte) :
    decodeBytes (b0 :: disp :: rest) = .ok i := by
  obtain ⟨h1, h2, h3, h4⟩ := not_class1234_of_jump? b0 (by rw [← isSome_jump? b0 disp, h]; rfl)
  rw [decodeBytes_class5 h1 h2 h3 h4]
  simp [decodeClass5, h]

/-! ## Unrecognised first bytes (R85, R86) -/

/-- Class 5 refuses a byte before others when it refuses it as the last one: the displacement plays no part. -/
theorem decodeClass5_unrecognized_of_nil {b0 : Byte} (h : decodeClass5 b0 [] = .unrecognizedOpcode b0)
    (rest : List Byte) : decodeClass5 b0 rest = .unrecognizedOpcode b0 := by
  cases rest with
  | nil => exact h
  | cons b1 more =>
    have hnone : jump? b0 b1 = none := by
      rw [← Option.not_isSome_iff_eq_none, isSome_jump?]
      intro hsome
      simp [decodeClass5, hsome] at h
    simp [decodeClass5, hnone]

/-- A first byte unrecognised as the last of the stream reaches the last test: classes 1 to 4 ask for more bytes (R106). -/
theorem decodeBytes_unrecognized_of_singleton {b0 : Byte} (h : decodeBytes [b0] = .unrecognizedOpcode b0)
    (rest : List Byte) : decodeBytes (b0 :: rest) = .unrecognizedOpcode b0 := by
  by_cases h1 : field b0 4 4 = 0b1011#4
  · rw [decodeBytes_class1 h1] at h
    cases hw : bit b0 3 <;> simp [decodeMovImmReg, hw] at h
  cases h2 : accOp? (field b0 1 7) with
  | some op =>
    rw [decodeBytes_class2 h2] at h
    cases hw : bit b0 0 <;> simp [decodeArithImmAcc, hw] at h
  | none =>
    by_cases h3 : field b0 2 6 = 0b100000#6
    · rw [decodeBytes_class3 h3] at h
      cases h
    cases h4 : rmRegOp? (field b0 2 6) with
    | some op =>
      rw [decodeBytes_class4 h4] at h
      cases h
    | none =>
      rw [decodeBytes_class5 h1 h2 h3 h4] at h ⊢
      exact decodeClass5_unrecognized_of_nil h rest

/-- A sub-operation outside the subset makes the first byte unrecognised, whatever follows the mod byte (R86). -/
theorem decodeBytes_class3_unrecognized {b0 b1 : Byte} (h : field b0 2 6 = 0b100000#6) (hsub : subOp? (field b1 3 3) = none)
    (rest : List Byte) : decodeBytes (b0 :: b1 :: rest) = .unrecognizedOpcode b0 := by
  rw [decodeBytes_class3 h]
  simp [decodeClass3, hsub]

end Sys2Proof

namespace Sys2Proof.Machine

theorem decodeAt_unrecognized {m : Memory} {c : Nat} {b : Byte}
    (h : decodeBytes (m.window c Config.maxLen) = .unrecognizedOpcode b) :
    decodeAt m c = .err (.unrecognizedOpcode c b) := by
  simp [decodeAt, h]

theorem decodeAt_truncated {m : Memory} {c n : Nat}
    (h : decodeBytes (m.window c Config.maxLen) = .truncatedInstruction n) :
    decodeAt m c = .err (.truncatedInstruction c n (m.len - c)) := by
  simp [decodeAt, h]

theorem mem_unrecognisedRanges {n : Nat} : n ∈ unrecognisedRanges ↔
    0x06 ≤ n ∧ n ≤ 0x27 ∨ 0x2E ≤ n ∧ n ≤ 0x37 ∨ 0x3E ≤ n ∧ n ≤ 0x6F ∨ 0x84 ≤ n ∧ n ≤ 0x87 ∨ 0x8C ≤ n ∧ n ≤ 0xAF ∨
      0xC0 ≤ n ∧ n ≤ 0xDF ∨ 0xE4 ≤ n ∧ n ≤ 0xFF := by
  simp only [unrecognisedRanges, List.mem_append, List.mem_range'_1]
  omega

/-- As the last byte of the stream, the unrecognised first bytes are those of the seven ranges. -/
theorem decodeBytes_singleton_unrecognized_iff : ∀ b0 : Byte,
    decodeBytes [b0] = .unrecognizedOpcode b0 ↔ b0.toNat ∈ unrecognisedRanges := by
  simp only [mem_unrecognisedRanges]
  decide

/-- Settles O37: it is enough to look at the byte alone, and there are 256 of them. -/
theorem unrecognisedFirstBytes : Obligations.UnrecognisedFirstBytes := by
  unfold Obligations.UnrecognisedFirstBytes
  refine ⟨fun b0 => ?_, by simp [unrecognisedRanges]⟩
  rw [← decodeBytes_singleton_unrecognized_iff b0]
  exact ⟨fun h => h [], decodeBytes_unrecognized_of_singleton⟩

/-- Settles O38: the four first bytes are the class 3 bytes, and the five sub-operations are those `subOp?` refuses. -/
theorem classThreeSubOperationsOutsideTheSubset : Obligations.ClassThreeSubOperationsOutsideTheSubset := by
  unfold Obligations.ClassThreeSubOperationsOutsideTheSubset
  have hclass : ∀ b0 ∈ ([0x80, 0x81, 0x82, 0x83] : List Byte), field b0 2 6 = 0b100000#6 := by decide
  have hsub : ∀ p ∈ ([0b001, 0b010, 0b011, 0b100, 0b110] : List Reg3), subOp? p = none := by decide
  refine fun b0 hb0 m c => ⟨fun b1 hb1 hpre => ?_, fun hwin => ?_⟩
  · obtain ⟨rest, hwin⟩ := hpre
    exact decodeAt_unrecognized (hwin ▸ decodeBytes_class3_unrecognized (hclass b0 hb0) (hsub _ hb1) rest)
  · have hlen := window_length m Config.maxLen c
    have htrunc := decodeAt_truncated (hwin ▸ decodeBytes_class3 (hclass b0 hb0) [])
    rw [hwin, List.length_singleton, Config.maxLen] at hlen
    rwa [show m.len - c = 1 by omega] at htrunc

end Sys2Proof.Machine
end

section
/-! PROOFS, family 30_encoding. The decoder on an encoding: the operand, then one lemma per class, then all 56
instructions (R60 to R75). -/

namespace Sys2Proof

/-! ## The operand (R66 to R70) -/

/-- The two `mod` bits an operand form is encoded with (R67). -/
def RmOperand.modBits : RmOperand → BitVec 2
  | .reg _ => 0b11#2
  | .mem0 _ | .direct _ => 0b00#2
  | .mem8 _ _ => 0b01#2
  | .mem16 _ _ => 0b10#2

/-- The displacement or address bytes of an operand (R70). -/
def RmOperand.dispBytes : RmOperand → List Byte
  | .reg _ | .mem0 _ => []
  | .mem8 _ d => [d]
  | .mem16 _ v | .direct v => wordBytes v

/-- An operand's encoding is its mod byte, then its displacement or address bytes. -/
theorem RmOperand.encode_eq (mid : Reg3) (rm : RmOperand) :
    rm.encode mid = modByte rm.modBits mid rm.rmField :: rm.dispBytes := by
  cases rm <;> rfl

/-- Class 4 reads its operand back and leaves the bytes after it. -/
theorem rmOperand4_encoded {rm : RmOperand} (h : rm.class4Ok = true) (rest : List Byte) :
    rmOperand4 rm.modBits rm.rmField (rm.dispBytes ++ rest) = some (rm, rest) := by
  cases rm with
  | direct a => cases h
  | reg r | mem0 r | mem8 r d => rfl
  | mem16 r v => simp [rmOperand4, RmOperand.modBits, RmOperand.dispBytes, RmOperand.rmField, wordBytes]

/-- Class 3 reads its operand back, the direct address included. -/
theorem rmOperand3_encoded {rm : RmOperand} (h : rm.class3Ok = true) (rest : List Byte) :
    rmOperand3 rm.modBits rm.rmField (rm.dispBytes ++ rest) = some (rm, rest) := by
  cases rm with
  | direct a => simp [rmOperand3, RmOperand.modBits, RmOperand.dispBytes, RmOperand.rmField, wordBytes]
  | mem0 r =>
    have hr : r ≠ 6#3 := by simpa [RmOperand.class3Ok] using h
    exact (if_neg fun hd => hr hd.2).trans (rmOperand4_encoded rfl rest)
  | reg r | mem8 r d | mem16 r v => exact (if_neg fun hd => by cases hd.1).trans (rmOperand4_encoded rfl rest)

/-! ## The five classes -/

/-- The first byte of class 1 holds the width in bit 3 and the register in bits 2:0 (R61). -/
theorem fields_class1_byte : ∀ reg : Reg3,
    field (0b10110#5 ++ reg) 4 4 = 0b1011#4 ∧ bit (0b10110#5 ++ reg) 3 = false ∧ field (0b10110#5 ++ reg) 0 3 = reg := by
  decide

theorem fields_class1_word : ∀ reg : Reg3,
    field (0b10111#5 ++ reg) 4 4 = 0b1011#4 ∧ bit (0b10111#5 ++ reg) 3 = true ∧ field (0b10111#5 ++ reg) 0 3 = reg := by
  decide

theorem decodeBytes_mov8 (reg : Reg3) (imm : Byte) (rest : List Byte) :
    decodeBytes ((0b10110#5 ++ reg) :: imm :: rest) = .ok (.movReg8Imm8 reg imm) := by
  obtain ⟨hclass, hw, hreg⟩ := fields_class1_byte reg
  rw [decodeBytes_class1 hclass, hw, hreg]
  rfl

theorem decodeBytes_mov16 (reg : Reg3) (imm : Word) (rest : List Byte) :
    decodeBytes ((0b10111#5 ++ reg) :: (wordBytes imm ++ rest)) = .ok (.movReg16Imm16 reg imm) := by
  obtain ⟨hclass, hw, hreg⟩ := fields_class1_word reg
  rw [decodeBytes_class1 hclass, hw, hreg]
  simp [decodeMovImmReg, wordBytes]

section
variable {b0 : Byte} {op : ArithOp} (hop : accOp? (field b0 1 7) = some op)
include hop

theorem decodeBytes_acc8 (hw : bit b0 0 = false) (imm : Byte) (rest : List Byte) :
    decodeBytes (b0 :: imm :: rest) = .ok (accInstr8 op imm) := by
  rw [decodeBytes_class2 hop, hw]
  rfl

theorem decodeBytes_acc16 (hw : bit b0 0 = true) (imm : Word) (rest : List Byte) :
    decodeBytes (b0 :: (wordBytes imm ++ rest)) = .ok (accInstr16 op imm) := by
  rw [decodeBytes_class2 hop, hw]
  simp [decodeArithImmAcc, wordBytes]

end

section
variable {b0 : Byte} {op : ArithOp} {mid : Reg3} {rm : RmOperand} (hclass : field b0 2 6 = 0b100000#6)
  (hsub : subOp? mid = some op)
include hclass hsub

/-- Class 3 up to its immediate: the selector bits, the sub-operation and the operand are read back (R63, R81). -/
theorem decodeBytes_class3_operand (rest : List Byte) :
    decodeBytes (b0 :: (rm.encode mid ++ rest)) =
      decodeArithImmRm op (bit b0 1) (bit b0 0) rm.modBits rm.rmField (rm.dispBytes ++ rest) := by
  obtain ⟨hmod, hmid, hrmField⟩ := field_modByte rm.modBits mid rm.rmField
  rw [decodeBytes_class3 hclass, RmOperand.encode_eq, List.cons_append]
  simp only [decodeClass3, hmod, hmid, hrmField, hsub]

/-- First bytes 0x80, 0x82 and 0x83: one immediate byte (R72). -/
theorem decodeBytes_rm8 (hrm : rm.class3Ok = true) (hsw : ¬ (bit b0 1 = false ∧ bit b0 0 = true)) (imm : Byte)
    (rest : List Byte) :
    decodeBytes (b0 :: (rm.encode mid ++ [imm] ++ rest)) = .ok (rmInstr8 op (bit b0 1) (bit b0 0) rm imm) := by
  rw [List.append_assoc, decodeBytes_class3_operand hclass hsub, decodeArithImmRm, rmOperand3_encoded hrm]
  simp only [if_neg hsw, List.cons_append]

/-- First byte 0x81: two immediate bytes (R72). -/
theorem decodeBytes_rm16 (hrm : rm.class3Ok = true) (hsw : bit b0 1 = false ∧ bit b0 0 = true) (imm : Word)
    (rest : List Byte) :
    decodeBytes (b0 :: (rm.encode mid ++ wordBytes imm ++ rest)) = .ok (rmInstr16 op rm imm) := by
  rw [List.append_assoc, decodeBytes_class3_operand hclass hsub, decodeArithImmRm, rmOperand3_encoded hrm]
  simp only [if_pos hsw, wordBytes, List.cons_append, mkWord_hi_lo]

end

/-- Class 4: the direction and width bits, the register and the operand are read back (R64, R166). -/
theorem decodeBytes_rmReg {b0 : Byte} {op : RmRegOp} {rm : RmOperand} (hop : rmRegOp? (field b0 2 6) = some op)
    (hrm : rm.class4Ok = true) (reg : Reg3) (rest : List Byte) :
    decodeBytes (b0 :: (rm.encode reg ++ rest)) = .ok (rmRegInstr op (bit b0 1) (bit b0 0) rm reg) := by
  obtain ⟨hmod, hreg, hrmField⟩ := field_modByte rm.modBits reg rm.rmField
  rw [decodeBytes_class4 hop, RmOperand.encode_eq, List.cons_append]
  simp only [decodeClass4, decodeRmReg, hmod, hreg, hrmField, rmOperand4_encoded hrm]

/-! ## All instructions -/

/-- Every instruction, by the operation and the class whose lemma reads it back. -/
theorem decodeBytes_encode {i : Instr} (h : i.wellFormed = true) (rest : List Byte) :
    decodeBytes (encode i ++ rest) = .ok i := by
  cases i
  case movReg8Imm8 reg imm => exact decodeBytes_mov8 reg imm rest
  case movReg16Imm16 reg imm => exact decodeBytes_mov16 reg imm rest
  case addAlImm8 imm => exact decodeBytes_acc8 (op := .add) rfl rfl imm rest
  case subAlImm8 imm => exact decodeBytes_acc8 (op := .sub) rfl rfl imm rest
  case cmpAlImm8 imm => exact decodeBytes_acc8 (op := .cmp) rfl rfl imm rest
  case addAxImm16 imm => exact decodeBytes_acc16 (op := .add) rfl rfl imm rest
  case subAxImm16 imm => exact decodeBytes_acc16 (op := .sub) rfl rfl imm rest
  case cmpAxImm16 imm => exact decodeBytes_acc16 (op := .cmp) rfl rfl imm rest
  case addRm8Imm8 rm imm | addRm8Imm8S rm imm | addRm16Simm8 rm imm =>
    exact decodeBytes_rm8 (op := .add) rfl rfl h (by decide) imm rest
  case subRm8Imm8 rm imm | subRm8Imm8S rm imm | subRm16Simm8 rm imm =>
    exact decodeBytes_rm8 (op := .sub) rfl rfl h (by decide) imm rest
  case cmpRm8Imm8 rm imm | cmpRm8Imm8S rm imm | cmpRm16Simm8 rm imm =>
    exact decodeBytes_rm8 (op := .cmp) rfl rfl h (by decide) imm rest
  case addRm16Imm16 rm imm => exact decodeBytes_rm16 (op := .add) rfl rfl h ⟨rfl, rfl⟩ imm rest
  case subRm16Imm16 rm imm => exact decodeBytes_rm16 (op := .sub) rfl rfl h ⟨rfl, rfl⟩ imm rest
  case cmpRm16Imm16 rm imm => exact decodeBytes_rm16 (op := .cmp) rfl rfl h ⟨rfl, rfl⟩ imm rest
  case movRm8Reg8 rm reg | movRm16Reg16 rm reg | movReg8Rm8 rm reg | movReg16Rm16 rm reg =>
    exact decodeBytes_rmReg (op := .mov) rfl h reg rest
  case addRm8Reg8 rm reg | addRm16Reg16 rm reg | addReg8Rm8 rm reg | addReg16Rm16 rm reg =>
    exact decodeBytes_rmReg (op := .add) rfl h reg rest
  case subRm8Reg8 rm reg | subRm16Reg16 rm reg | subReg8Rm8 rm reg | subReg16Rm16 rm reg =>
    exact decodeBytes_rmReg (op := .sub) rfl h reg rest
  case cmpRm8Reg8 rm reg | cmpRm16Reg16 rm reg | cmpReg8Rm8 rm reg | cmpReg16Rm16 rm reg =>
    exact decodeBytes_rmReg (op := .cmp) rfl h reg rest
  -- class 5: the first byte is one of the 20 opcodes (R82)
  all_goals exact decodeBytes_jump rfl rest

/-- Every encoding has its record's length, 2 to 6 bytes (R60, R75). -/
theorem encodedLength (i : Instr) : Laws.EncodedLength.Statement i := by
  cases i
  case addRm8Imm8 | addRm8Imm8S | addRm16Simm8 | subRm8Imm8 | subRm8Imm8S | subRm16Simm8 | cmpRm8Imm8 | cmpRm8Imm8S |
      cmpRm16Simm8 | addRm16Imm16 | subRm16Imm16 | cmpRm16Imm16 =>
    exact Laws.EncodedLength.of_class3 rfl (by decide) (by decide)
  case movRm8Reg8 | movRm16Reg16 | movReg8Rm8 | movReg16Rm16 | addRm8Reg8 | addRm16Reg16 | addReg8Rm8 | addReg16Rm16 |
      subRm8Reg8 | subRm16Reg16 | subReg8Rm8 | subReg16Rm16 | cmpRm8Reg8 | cmpRm16Reg16 | cmpReg8Rm8 | cmpReg16Rm16 =>
    exact Laws.EncodedLength.of_class4
  -- classes 1, 2 and 5 have constant lengths
  all_goals exact ⟨rfl, Nat.le_of_ble_eq_true rfl, Nat.le_of_ble_eq_true rfl⟩

/-- Settles O44: the class of the first byte is decided once, and each class reads its fields back. -/
theorem decodeOfEncodeIsTheInstruction : Obligations.DecodeOfEncodeIsTheInstruction := by
  unfold Obligations.DecodeOfEncodeIsTheInstruction
  exact fun i h => ⟨(encodedLength i).1, decodeBytes_encode h⟩

/-- Settles O46: each word is the encoding of its instruction. -/
theorem wordsOfTheSpecDecode : Obligations.WordsOfTheSpecDecode := by
  unfold Obligations.WordsOfTheSpecDecode
  exact ⟨decodeBytes_encode (i := .movReg16Imm16 1#3 0x1234#16) rfl [],
    decodeBytes_encode (i := .addAxImm16 0x1000#16) rfl [],
    decodeBytes_encode (i := .cmpRm16Simm8 (.mem8 6#3 0xFE#8) 0#8) rfl [],
    decodeBytes_encode (i := .cmpRm16Imm16 (.direct 1000#16) 0x1234#16) rfl [],
    decodeBytes_encode (i := .subReg8Rm8 (.mem16 7#3 0x0100#16) 0#3) rfl [],
    decodeBytes_encode (i := .jb 0x80#8) rfl [], decodeBytes_encode (i := .loopz 0xFC#8) rfl []⟩

/-! ## The length by parts (R75) -/

/-- `record_cases` with what a well-formed instruction adds: the size of the immediate is fixed by `w` in classes 1 and 2
and by `sw` in class 3 (R71, R72), and class 4 has no direct address (R171). -/
theorem record_cases_of_wellFormed {i : Instr} (hwf : i.wellFormed = true) :
    (∃ w reg v, i.record = recMovImmReg w reg (if w then 2 else 1) v) ∨
      (∃ op w v, i.record = recArithImmAcc op w (if w then 2 else 1) v) ∨
      (∃ op s w rm v, i.record = recArithImmRm op s w rm (immSize3 s w) v) ∨
      (∃ op d w rm reg, rm.class4Ok = true ∧ i.record = recRmReg op d w rm reg) ∨
      ∃ tag op disp, (tag = .condJump ∨ tag = .loop) ∧ i.record = recJump tag op disp := by
  cases i
  case movReg8Imm8 | movReg16Imm16 => exact .inl ⟨_, _, _, rfl⟩
  case addAlImm8 | addAxImm16 | subAlImm8 | subAxImm16 | cmpAlImm8 | cmpAxImm16 => exact .inr (.inl ⟨_, _, _, rfl⟩)
  case addRm8Imm8 | addRm8Imm8S | addRm16Simm8 | subRm8Imm8 | subRm8Imm8S | subRm16Simm8 | cmpRm8Imm8 | cmpRm8Imm8S |
      cmpRm16Simm8 | addRm16Imm16 | subRm16Imm16 | cmpRm16Imm16 =>
    exact .inr (.inr (.inl ⟨_, _, _, _, _, rfl⟩))
  case movRm8Reg8 | movRm16Reg16 | movReg8Rm8 | movReg16Rm16 | addRm8Reg8 | addRm16Reg16 | addReg8Rm8 | addReg16Rm16 |
      subRm8Reg8 | subRm16Reg16 | subReg8Rm8 | subReg16Rm16 | cmpRm8Reg8 | cmpRm16Reg16 | cmpReg8Rm8 | cmpReg16Rm16 =>
    exact .inr (.inr (.inr (.inl ⟨_, _, _, _, _, hwf, rfl⟩)))
  case loopnz | loopz | loop | jcxz => exact .inr (.inr (.inr (.inr ⟨_, _, _, .inr rfl, rfl⟩)))
  all_goals exact .inr (.inr (.inr (.inr ⟨_, _, _, .inl rfl, rfl⟩)))

/-- Settles O40: in each class the record's own sizes add up; classes 3 and 4 go by the operand form. -/
theorem lengthIsTheSumOfItsParts : Obligations.LengthIsTheSumOfItsParts := by
  unfold Obligations.LengthIsTheSumOfItsParts
  intro i hwf
  obtain ⟨w, reg, v, h⟩ | ⟨op, w, v, h⟩ | ⟨op, s, w, rm, v, h⟩ | ⟨op, d, w, rm, reg, hrm, h⟩ |
    ⟨tag, op, disp, rfl | rfl, h⟩ := record_cases_of_wellFormed hwf <;> rw [h]
  · cases w <;> exact ⟨rfl, rfl⟩
  · cases w <;> exact ⟨rfl, rfl⟩
  · cases rm <;> cases s <;> cases w <;> exact ⟨rfl, rfl⟩
  · cases rm with
    | direct a => cases hrm
    | reg r | mem0 r | mem8 r d | mem16 r v => exact ⟨rfl, rfl⟩
  · exact ⟨rfl, rfl⟩
  · exact ⟨rfl, rfl⟩

end Sys2Proof
end

section
/-! PROOFS, family 40_decoder_and_step. Encoding what was decoded: each byte is made of the fields read from it, so every
function of the decoder gives back the bytes it consumed (R105). -/

namespace Sys2Proof

/-! ## A byte is made of its fields (R61 to R66) -/

theorem byte_eq_class1_fields : ∀ b : Byte, b = field b 4 4 ++ BitVec.ofBool (bit b 3) ++ field b 0 3 := by decide

theorem byte_eq_class2_fields : ∀ b : Byte, b = field b 1 7 ++ BitVec.ofBool (bit b 0) := by decide

theorem byte_eq_class34_fields : ∀ b : Byte,
    b = field b 2 6 ++ BitVec.ofBool (bit b 1) ++ BitVec.ofBool (bit b 0) := by decide

theorem byte_eq_modByte : ∀ b : Byte, b = modByte (field b 6 2) (field b 3 3) (field b 0 3) := by decide

/-! ## The operand (R67 to R70) -/

/-- What class 4 reads is the operand that `mod`, `rm` and the bytes consumed stand for; it is no direct address. -/
theorem rmOperand4_reads {mod : BitVec 2} {rm : Reg3} {rest more : List Byte} {operand : RmOperand}
    (h : rmOperand4 mod rm rest = some (operand, more)) :
    operand.class4Ok = true ∧ operand.modBits = mod ∧ operand.rmField = rm ∧ rest = operand.dispBytes ++ more := by
  have hreg : ∀ mod : BitVec 2, mod ≠ 0b00#2 → mod ≠ 0b01#2 → mod ≠ 0b10#2 → 0b11#2 = mod := by decide
  unfold rmOperand4 at h
  split at h
  next h0 => cases h; exact ⟨rfl, h0.symm, rfl, rfl⟩
  next h0 =>
    split at h
    next h1 =>
      split at h <;> cases h
      exact ⟨rfl, h1.symm, rfl, rfl⟩
    next h1 =>
      split at h
      next h2 =>
        split at h <;> cases h
        exact ⟨rfl, h2.symm, rfl, by simp [RmOperand.dispBytes, wordBytes]⟩
      next h2 => cases h; exact ⟨rfl, hreg mod h0 h1 h2, rfl, rfl⟩

/-- An operand class 4 admits is one class 3 admits, where `mod` and `rm` do not announce a direct address (R68). -/
theorem class3Ok_of_class4Ok {operand : RmOperand} (h : operand.class4Ok = true)
    (hdirect : ¬ (operand.modBits = 0b00#2 ∧ operand.rmField = 0b110#3)) : operand.class3Ok = true := by
  cases operand with
  | direct a => cases h
  | mem0 r => exact bne_iff_ne.2 fun hr => hdirect ⟨rfl, hr⟩
  | reg r | mem8 r d | mem16 r v => rfl

/-- The same for class 3, the direct address included. -/
theorem rmOperand3_reads {mod : BitVec 2} {rm : Reg3} {rest more : List Byte} {operand : RmOperand}
    (h : rmOperand3 mod rm rest = some (operand, more)) :
    operand.class3Ok = true ∧ operand.modBits = mod ∧ operand.rmField = rm ∧ rest = operand.dispBytes ++ more := by
  unfold rmOperand3 at h
  split at h
  next hdirect =>
    split at h <;> cases h
    exact ⟨rfl, hdirect.1.symm, hdirect.2.symm, by simp [RmOperand.dispBytes, wordBytes]⟩
  next hdirect =>
    obtain ⟨hok, rfl, rfl, hrest⟩ := rmOperand4_reads h
    exact ⟨class3Ok_of_class4Ok hok hdirect, rfl, rfl, hrest⟩

/-! ## The encoding of what each class builds -/

theorem encode_accInstr8 {p : BitVec 7} {op : ArithOp} (h : accOp? p = some op) (imm : Byte) :
    encode (accInstr8 op imm) = [p ++ BitVec.ofBool false, imm] := by
  unfold accOp? at h
  split_ifs at h <;> subst p <;> cases h <;> rfl

theorem encode_accInstr16 {p : BitVec 7} {op : ArithOp} (h : accOp? p = some op) (imm : Word) :
    encode (accInstr16 op imm) = (p ++ BitVec.ofBool true) :: wordBytes imm := by
  unfold accOp? at h
  split_ifs at h <;> subst p <;> cases h <;> rfl

theorem encode_rmInstr8 {p : Reg3} {op : ArithOp} (h : subOp? p = some op) {s w : Bool}
    (hsw : ¬ (s = false ∧ w = true)) (rm : RmOperand) (imm : Byte) :
    encode (rmInstr8 op s w rm imm) =
      (0b100000#6 ++ BitVec.ofBool s ++ BitVec.ofBool w) :: (rm.encode p ++ [imm]) := by
  unfold subOp? at h
  cases s <;> cases w
  case false.true => exact absurd ⟨rfl, rfl⟩ hsw
  all_goals split_ifs at h <;> subst p <;> cases h <;> rfl

theorem encode_rmInstr16 {p : Reg3} {op : ArithOp} (h : subOp? p = some op) (rm : RmOperand) (imm : Word) :
    encode (rmInstr16 op rm imm) =
      (0b100000#6 ++ BitVec.ofBool false ++ BitVec.ofBool true) :: (rm.encode p ++ wordBytes imm) := by
  unfold subOp? at h
  split_ifs at h <;> subst p <;> cases h <;> rfl

theorem encode_rmRegInstr {p : BitVec 6} {op : RmRegOp} (h : rmRegOp? p = some op) (d w : Bool) (rm : RmOperand)
    (reg : Reg3) :
    encode (rmRegInstr op d w rm reg) = (p ++ BitVec.ofBool d ++ BitVec.ofBool w) :: rm.encode reg := by
  unfold rmRegOp? at h
  split_ifs at h <;> subst p <;> cases h <;> cases d <;> cases w <;> rfl

theorem rmInstr8_wellFormed (op : ArithOp) (s w : Bool) (rm : RmOperand) (imm : Byte) :
    (rmInstr8 op s w rm imm).wellFormed = rm.class3Ok := by
  cases op <;> cases s <;> cases w <;> rfl

theorem rmInstr16_wellFormed (op : ArithOp) (rm : RmOperand) (imm : Word) :
    (rmInstr16 op rm imm).wellFormed = rm.class3Ok := by
  cases op <;> rfl

theorem rmRegInstr_wellFormed (op : RmRegOp) (d w : Bool) (rm : RmOperand) (reg : Reg3) :
    (rmRegInstr op d w rm reg).wellFormed = rm.class4Ok := by
  cases op <;> cases d <;> cases w <;> rfl

/-! ## The five classes -/

/-- The bytes begin with the encoding of the instruction, a well-formed one. -/
def BeginsWith (bytes : List Byte) (i : Instr) : Prop := i.wellFormed = true ∧ encode i <+: bytes

theorem beginsWith_of_append {bytes more : List Byte} {i : Instr} (hwf : i.wellFormed = true)
    (h : bytes = encode i ++ more) : BeginsWith bytes i :=
  ⟨hwf, more, h.symm⟩

theorem decodeMovImmReg_beginsWith {w : Bool} {reg : Reg3} {rest : List Byte} {i : Instr}
    (h : decodeMovImmReg w reg rest = .ok i) : BeginsWith ((0b1011#4 ++ BitVec.ofBool w ++ reg) :: rest) i := by
  have hbyte : ∀ reg : Reg3, (0b1011#4 ++ BitVec.ofBool false ++ reg : Byte) = 0b10110#5 ++ reg := by decide
  have hword : ∀ reg : Reg3, (0b1011#4 ++ BitVec.ofBool true ++ reg : Byte) = 0b10111#5 ++ reg := by decide
  unfold decodeMovImmReg at h
  split at h <;> cases h
  next imm more => exact beginsWith_of_append (more := more) rfl (by rw [hbyte]; rfl)
  next lo hi more => exact beginsWith_of_append (more := more) rfl (by rw [hword]; simp [encode, wordBytes])

theorem decodeArithImmAcc_beginsWith {p : BitVec 7} {op : ArithOp} (hop : accOp? p = some op) {w : Bool}
    {rest : List Byte} {i : Instr} (h : decodeArithImmAcc op w rest = .ok i) :
    BeginsWith ((p ++ BitVec.ofBool w) :: rest) i := by
  unfold decodeArithImmAcc at h
  split at h <;> cases h
  next imm more =>
    exact beginsWith_of_append (more := more) (by cases op <;> rfl) (by rw [encode_accInstr8 hop]; rfl)
  next lo hi more =>
    refine beginsWith_of_append (more := more) (by cases op <;> rfl) ?_
    rw [encode_accInstr16 hop]
    simp [wordBytes]

/-- Class 3 from its mod byte on: displacement or address first, immediate last (R74). -/
theorem decodeArithImmRm_beginsWith {mid : Reg3} {op : ArithOp} (hop : subOp? mid = some op) {s w : Bool}
    {mod : BitVec 2} {rm : Reg3} {rest : List Byte} {i : Instr} (h : decodeArithImmRm op s w mod rm rest = .ok i) :
    BeginsWith ((0b100000#6 ++ BitVec.ofBool s ++ BitVec.ofBool w) :: modByte mod mid rm :: rest) i := by
  unfold decodeArithImmRm at h
  split at h
  · cases h
  next operand imm hoperand =>
    obtain ⟨hok, rfl, rfl, rfl⟩ := rmOperand3_reads hoperand
    split at h <;> split at h <;> cases h
    next hsw _ lo hi more =>
      obtain ⟨rfl, rfl⟩ := hsw
      refine beginsWith_of_append (more := more) ((rmInstr16_wellFormed ..).trans hok) ?_
      rw [encode_rmInstr16 hop, RmOperand.encode_eq]
      simp [wordBytes]
    next hsw _ lo more =>
      refine beginsWith_of_append (more := more) ((rmInstr8_wellFormed ..).trans hok) ?_
      rw [encode_rmInstr8 hop hsw, RmOperand.encode_eq]
      simp

/-- Class 4 from its mod byte on. -/
theorem decodeRmReg_beginsWith {p : BitVec 6} {op : RmRegOp} (hop : rmRegOp? p = some op) {d w : Bool}
    {mod : BitVec 2} {reg rm : Reg3} {rest : List Byte} {i : Instr} (h : decodeRmReg op d w mod reg rm rest = .ok i) :
    BeginsWith ((p ++ BitVec.ofBool d ++ BitVec.ofBool w) :: modByte mod reg rm :: rest) i := by
  unfold decodeRmReg at h
  split at h <;> cases h
  next operand more hoperand =>
    obtain ⟨hok, rfl, rfl, rfl⟩ := rmOperand4_reads hoperand
    refine beginsWith_of_append (more := more) ((rmRegInstr_wellFormed ..).trans hok) ?_
    rw [encode_rmRegInstr hop, RmOperand.encode_eq]
    rfl

theorem decodeClass3_beginsWith {b0 : Byte} (hclass : field b0 2 6 = 0b100000#6) {rest : List Byte} {i : Instr}
    (h : decodeClass3 b0 rest = .ok i) : BeginsWith (b0 :: rest) i := by
  unfold decodeClass3 at h
  split at h
  · cases h
  next b1 more =>
    split at h
    next op hop =>
      rw [byte_eq_class34_fields b0, byte_eq_modByte b1, hclass]
      exact decodeArithImmRm_beginsWith hop h
    next => cases h

theorem decodeClass4_beginsWith {b0 : Byte} {op : RmRegOp} (hop : rmRegOp? (field b0 2 6) = some op)
    {rest : List Byte} {i : Instr} (h : decodeClass4 op b0 rest = .ok i) : BeginsWith (b0 :: rest) i := by
  unfold decodeClass4 at h
  split at h
  · cases h
  next b1 more =>
    rw [byte_eq_class34_fields b0, byte_eq_modByte b1]
    exact decodeRmReg_beginsWith hop h

/-- A jump or loop is its opcode and its displacement (R82). -/
theorem encode_of_jump? {b0 disp : Byte} {i : Instr} (h : jump? b0 disp = some i) :
    i.wellFormed = true ∧ encode i = [b0, disp] := by
  unfold jump? at h
  split at h <;> cases h
  all_goals
    next hb0 => exact ⟨rfl, congrArg ([·, disp]) (BitVec.eq_of_toNat_eq hb0.symm)⟩

theorem decodeClass5_beginsWith {b0 : Byte} {rest : List Byte} {i : Instr} (h : decodeClass5 b0 rest = .ok i) :
    BeginsWith (b0 :: rest) i := by
  unfold decodeClass5 at h
  split at h
  · split at h <;> cases h
  next b1 more =>
    split at h <;> cases h
    next hjump =>
      obtain ⟨hwf, hbytes⟩ := encode_of_jump? hjump
      exact beginsWith_of_append (more := more) hwf (by rw [hbytes]; rfl)

/-! ## The whole decoder -/

/-- What decodes from some bytes is a well-formed instruction with whose encoding they begin. -/
theorem decodeBytes_beginsWith {bytes : List Byte} {i : Instr} (h : decodeBytes bytes = .ok i) : BeginsWith bytes i := by
  cases bytes with
  | nil => cases h
  | cons b0 rest =>
    change decodeFrom b0 rest = .ok i at h
    unfold decodeFrom at h
    split at h
    next h1 =>
      rw [byte_eq_class1_fields b0, h1]
      exact decodeMovImmReg_beginsWith h
    next =>
      split at h
      next op hop =>
        rw [byte_eq_class2_fields b0]
        exact decodeArithImmAcc_beginsWith hop h
      next =>
        split at h
        next h3 => exact decodeClass3_beginsWith h3 h
        next =>
          split at h
          next op hop => exact decodeClass4_beginsWith hop h
          next => exact decodeClass5_beginsWith h

/-- Settles O45: the bytes begin with the encoding, and the encoding is as long as the record says. -/
theorem encodeOfDecodeIsTheBytes : Obligations.EncodeOfDecodeIsTheBytes := by
  unfold Obligations.EncodeOfDecodeIsTheBytes
  intro bs i h
  obtain ⟨hwf, hbytes⟩ := decodeBytes_beginsWith h
  have hlen := (encodedLength i).1
  exact ⟨hwf, hlen ▸ hbytes.length_le, hlen ▸ List.prefix_iff_eq_take.1 hbytes⟩

end Sys2Proof
end

section
/-! PROOFS, family 40_decoder_and_step. What decoding at a cursor depends on: the window it reads is a function of the
bytes from the cursor on, and an instruction is decoded wherever its encoding stands (R100, R105). -/

namespace Sys2Proof

/-! ## The byte an unrecognised opcode reports (R241) -/

theorem decodeMovImmReg_ne_unrecognized {w : Bool} {reg : Reg3} {rest : List Byte} {b : Byte} :
    decodeMovImmReg w reg rest ≠ .unrecognizedOpcode b := by
  unfold decodeMovImmReg
  split <;> nofun

theorem decodeArithImmAcc_ne_unrecognized {op : ArithOp} {w : Bool} {rest : List Byte} {b : Byte} :
    decodeArithImmAcc op w rest ≠ .unrecognizedOpcode b := by
  unfold decodeArithImmAcc
  split <;> nofun

theorem decodeClass3_unrecognized {b0 b : Byte} {rest : List Byte} (h : decodeClass3 b0 rest = .unrecognizedOpcode b) :
    b = b0 := by
  unfold decodeClass3 at h
  split at h
  · cases h
  · split at h
    · unfold decodeArithImmRm at h
      split at h
      · cases h
      · split at h <;> split at h <;> cases h
    · cases h; rfl

theorem decodeClass4_ne_unrecognized {op : RmRegOp} {b0 : Byte} {rest : List Byte} {b : Byte} :
    decodeClass4 op b0 rest ≠ .unrecognizedOpcode b := by
  unfold decodeClass4 decodeRmReg
  split
  · nofun
  · split <;> nofun

theorem decodeClass5_unrecognized {b0 b : Byte} {rest : List Byte} (h : decodeClass5 b0 rest = .unrecognizedOpcode b) :
    b = b0 := by
  unfold decodeClass5 at h
  split at h <;> split at h <;> cases h <;> rfl

/-- Only classes 3 and 5 can be unrecognised, and the byte reported is the first one (R86). -/
theorem decodeBytes_unrecognized_head {bytes : List Byte} {b : Byte} (h : decodeBytes bytes = .unrecognizedOpcode b) :
    bytes.head? = some b := by
  cases bytes with
  | nil => cases h
  | cons b0 rest =>
    refine congrArg some (Eq.symm ?_)
    change decodeFrom b0 rest = .unrecognizedOpcode b at h
    unfold decodeFrom at h
    split at h
    · exact (decodeMovImmReg_ne_unrecognized h).elim
    · split at h
      · exact (decodeArithImmAcc_ne_unrecognized h).elim
      · split at h
        · exact decodeClass3_unrecognized h
        · split at h
          · exact (decodeClass4_ne_unrecognized h).elim
          · exact decodeClass5_unrecognized h

end Sys2Proof

namespace Sys2Proof.Machine

/-! ## The window -/

/-- A window is a function of the bytes it spans, wherever they stand. -/
theorem window_congr {m m' : Memory} : ∀ (n : Nat) {c c' : Nat},
    (∀ k, k < n → m'.read (c' + k) = m.read (c + k)) → m'.window c' n = m.window c n
  | 0, _, _, _ => rfl
  | n + 1, c, c', h => by
    have hhead : m'.read c' = m.read c := h 0 (Nat.succ_pos n)
    have htail : m'.window (c' + 1) n = m.window (c + 1) n := window_congr n fun k hk => by
      rw [Nat.add_right_comm c', Nat.add_right_comm c]
      exact h (k + 1) (Nat.succ_lt_succ hk)
    rw [Memory.window, Memory.window, hhead, htail]

/-- A shorter window is the beginning of a longer one. -/
theorem window_take (m : Memory) : ∀ {k n : Nat} (c : Nat), k ≤ n → (m.window c n).take k = m.window c k
  | 0, _, _, _ => List.take_zero
  | k + 1, n + 1, c, h => by
    rw [Memory.window, Memory.window]
    cases m.read c with
    | none => rfl
    | some b => exact congrArg (b :: ·) (window_take m (c + 1) (Nat.le_of_succ_le_succ h))

/-- The window's first byte is the byte at the cursor. -/
theorem window_head? (m : Memory) (c n : Nat) : (m.window c (n + 1)).head? = m.read c := by
  rw [Memory.window]
  cases m.read c <;> rfl

theorem window_past_end {m : Memory} {c : Nat} (h : m.len ≤ c) (n : Nat) : m.window c n = [] := by
  rw [← List.length_eq_zero_iff, window_length, Nat.sub_eq_zero_of_le h, Nat.min_zero]

/-! ## Decoding at a cursor -/

/-- An instruction is decoded wherever its encoding stands. -/
theorem decodeAt_of_encode {m : Memory} {c : Nat} {i : Instr} (hwf : i.wellFormed = true)
    (h : encode i <+: m.window c Config.maxLen) : decodeAt m c = .ok i := by
  obtain ⟨rest, hwin⟩ := h
  exact decodeAt_ok_iff.2 (hwin ▸ decodeBytes_encode hwf rest)

theorem record_length_le_maxLen (i : Instr) : i.record.length ≤ Config.maxLen := (encodedLength i).2.2

/-- A decoded instruction is well-formed, and its encoding is the bytes over its length (R105). -/
theorem decodeAt_ok_encode {m : Memory} {c : Nat} {i : Instr} (h : decodeAt m c = .ok i) :
    i.wellFormed = true ∧ encode i = m.window c i.record.length := by
  obtain ⟨hwf, -, henc⟩ := encodeOfDecodeIsTheBytes _ _ (decodeAt_ok_iff.1 h)
  exact ⟨hwf, henc.trans (window_take m c (record_length_le_maxLen i))⟩

/-- Settles O42: the bytes over the length are the encoding, and the encoding decodes wherever it stands. -/
theorem recordDependsOnItsBytesAlone : Obligations.RecordDependsOnItsBytesAlone := by
  unfold Obligations.RecordDependsOnItsBytesAlone
  intro m m' c c' i h hsame
  obtain ⟨hwf, henc⟩ := decodeAt_ok_encode h
  have hbytes : encode i = (m'.window c' Config.maxLen).take i.record.length := by
    rw [henc, window_take m' c' (record_length_le_maxLen i), window_congr _ hsame]
  exact decodeAt_of_encode hwf (hbytes ▸ List.take_prefix _ _)

/-- Settles O35: the three answers of `decodeAt_cases`, and two streams alike from the cursor on have one window. -/
theorem decodeContract : Obligations.DecodeContract := by
  unfold Obligations.DecodeContract
  refine ⟨fun m c _ => ?_, fun m m' c hlen hread => ?_⟩
  · obtain ⟨i, -, hd⟩ | ⟨b, hb, hd⟩ | ⟨n, -, hd⟩ := decodeAt_cases m c
    · obtain ⟨-, hmin, hmax⟩ := encodedLength i
      exact .inl ⟨i, hd, hmin, hmax, decodeAt_ok_end_le hd⟩
    · exact .inr (.inl ⟨b, hd, (window_head? m c 5).symm.trans (decodeBytes_unrecognized_head hb)⟩)
    · exact .inr (.inr ⟨n, hd⟩)
  · have hwin : m.window c Config.maxLen = m'.window c Config.maxLen :=
      window_congr _ fun k _ => hread (c + k) (Nat.le_add_right c k)
    unfold decodeAt
    rw [hwin, hlen]

/-- Settles O39: past the end the decoder is given no byte. -/
theorem decodePastTheEnd : Obligations.DecodePastTheEnd := by
  unfold Obligations.DecodePastTheEnd
  refine ⟨fun m c h => ?_, fun s => step_of_end⟩
  rw [← Nat.sub_eq_zero_of_le h]
  exact decodeAt_truncated (by rw [window_past_end h]; rfl)

/-- Where an instruction is decoded the stream has not ended, so the step executes it. -/
theorem step_of_decodeAt {s : State} {i : Instr} (hcap : s.withinCap = true) (hrun : s.phase = .running)
    (h : decodeAt s.buf s.cur = .ok i) : step s = exec i s := by
  have hend := decodeAt_ok_end_le h
  have hpos := record_length_pos i
  exact step_of_ok hcap hrun (by omega) h

/-- Settles O30: an encoding at the cursor decodes, and what decodes is executed. -/
theorem stepRunsTheDecodedInstruction : Obligations.StepRunsTheDecodedInstruction := by
  unfold Obligations.StepRunsTheDecodedInstruction
  refine fun s i hcap hrun => ⟨fun h => step_of_decodeAt hcap hrun (decodeAt_ok_iff.2 h), fun hwf henc => ?_⟩
  have hd := decodeAt_of_encode hwf henc
  exact ⟨hd, step_of_decodeAt hcap hrun hd⟩

end Sys2Proof.Machine
end

section
/-! PROOFS, family 40_decoder_and_step. The decoded record: which fields each class carries (R104), and the instruction
read back from its record (R105). -/

namespace Sys2Proof

/-- Settles O41: the five builders fill the fields of the table; classes 3 and 4 go by the operand form. -/
theorem recordsCarryTheFieldsOfTheirClass : Obligations.RecordsCarryTheFieldsOfTheirClass := by
  unfold Obligations.RecordsCarryTheFieldsOfTheirClass
  intro i hwf
  obtain ⟨w, reg, v, h⟩ | ⟨op, w, v, h⟩ | ⟨op, s, w, rm, v, h⟩ | ⟨op, d, w, rm, reg, hrm, h⟩ |
    ⟨tag, op, disp, rfl | rfl, h⟩ := record_cases_of_wellFormed hwf <;> rw [h]
  · simp [recMovImmReg]
  · simp [recArithImmAcc]
  · cases rm <;> simp [recArithImmRm, RmOperand.isDirect, RmOperand.addr, RmOperand.dispSize, RmOperand.disp]
  · cases rm with
    | direct a => cases hrm
    | reg r | mem0 r | mem8 r disp | mem16 r disp =>
      simp [recRmReg, RmOperand.isDirect, RmOperand.addr, RmOperand.dispSize, RmOperand.disp]
  · simp [recJump]
  · simp [recJump]

/-! ## Reading an instruction back from its record -/

/-- The operand of which these are the record's fields. -/
def RmOperand.ofFields (mode : Mode) (rm : Reg3) (addr disp : Option Word) : Option RmOperand :=
  match mode with
  | .reg => some (.reg rm)
  | .mem0 => some (addr.elim (.mem0 rm) .direct)
  | .mem8 => disp.map fun d => .mem8 rm (loByte d)
  | .mem16 => disp.map (.mem16 rm)

@[simp] theorem loByte_sext16 (b : Byte) : loByte (sext16 b) = b :=
  BitVec.eq_of_getLsbD_eq fun i h => by
    rw [getLsbD_loByte, decide_eq_true h, Bool.true_and, sext16, BitVec.getLsbD_signExtend, if_pos h,
      decide_eq_true (by omega), Bool.true_and]

/-- An operand is read back from its fields, the sign-extended displacement included (R70). -/
@[simp] theorem ofFields_fields (rm : RmOperand) :
    RmOperand.ofFields rm.mode rm.rmField rm.addr rm.disp = some rm := by
  cases rm with
  | mem8 r d => exact congrArg (some <| RmOperand.mem8 r ·) (loByte_sext16 d)
  | reg r | mem0 r | mem16 r d | direct a => rfl

/-- The class 4 operation of a record's operation. -/
def RmRegOp.ofOp? : Op → Option RmRegOp
  | .mov => some .mov
  | .add => some .add
  | .sub => some .sub
  | .cmp => some .cmp
  | _ => none

/-- The first byte of a jump or loop (R82). -/
def jumpByte? : Op → Option Byte
  | .jo => some 0x70#8
  | .jno => some 0x71#8
  | .jb => some 0x72#8
  | .jnb => some 0x73#8
  | .jz => some 0x74#8
  | .jnz => some 0x75#8
  | .jbe => some 0x76#8
  | .ja => some 0x77#8
  | .js => some 0x78#8
  | .jns => some 0x79#8
  | .jp => some 0x7A#8
  | .jnp => some 0x7B#8
  | .jl => some 0x7C#8
  | .jnl => some 0x7D#8
  | .jle => some 0x7E#8
  | .jg => some 0x7F#8
  | .loopnz => some 0xE0#8
  | .loopz => some 0xE1#8
  | .loop => some 0xE2#8
  | .jcxz => some 0xE3#8
  | .mov | .add | .sub | .cmp => none

/-- The instruction of which this is the record; `none` for a record of no instruction. -/
def Record.instr? (D : Record) : Option Instr :=
  match D.classTag with
  | .immToRegMov => do
    let w ← D.w
    let reg ← D.reg
    let v ← D.imm
    pure (if w then .movReg16Imm16 reg v else .movReg8Imm8 reg (loByte v))
  | .immToAccArith => do
    let op ← Machine.arithOp? D.op
    let w ← D.w
    let v ← D.imm
    pure (if w then accInstr16 op v else accInstr8 op (loByte v))
  | .immToRmArith => do
    let op ← Machine.arithOp? D.op
    let s ← D.s
    let w ← D.w
    let operand ← RmOperand.ofFields (← D.mode) (← D.rm) D.addr D.disp
    let v ← D.imm
    pure (if s = false ∧ w = true then rmInstr16 op operand v else rmInstr8 op s w operand (loByte v))
  | .rmReg => do
    let op ← RmRegOp.ofOp? D.op
    let d ← D.d
    let w ← D.w
    let operand ← RmOperand.ofFields (← D.mode) (← D.rm) D.addr D.disp
    let reg ← D.reg
    pure (rmRegInstr op d w operand reg)
  | .condJump | .loop => do
    let b0 ← jumpByte? D.op
    let j ← D.jdisp
    jump? b0 (BitVec.ofInt 8 j)

/-- Class 3 is read back through its operand. -/
theorem instr?_recArithImmRm {op : Op} {a : ArithOp} {s w : Bool} {rm : RmOperand} {n : Nat} {v : Word} {i : Instr}
    (hop : Machine.arithOp? op = some a)
    (hi : (if s = false ∧ w = true then rmInstr16 a rm v else rmInstr8 a s w rm (loByte v)) = i) :
    (recArithImmRm op s w rm n v).instr? = some i := by
  simp [Record.instr?, recArithImmRm, hop, hi]

/-- Class 4 likewise. -/
theorem instr?_recRmReg {op : Op} {a : RmRegOp} {d w : Bool} {rm : RmOperand} {reg : Reg3} {i : Instr}
    (hop : RmRegOp.ofOp? op = some a) (hi : rmRegInstr a d w rm reg = i) :
    (recRmReg op d w rm reg).instr? = some i := by
  simp [Record.instr?, recRmReg, hop, hi]

/-- Class 5 is read back through its signed displacement (R73). -/
theorem instr?_recJump {tag : ClassTag} {op : Op} {b0 disp : Byte} {i : Instr} (htag : tag = .condJump ∨ tag = .loop)
    (hop : jumpByte? op = some b0) (hi : jump? b0 disp = some i) : (recJump tag op disp).instr? = some i := by
  obtain rfl | rfl := htag <;> simp [Record.instr?, recJump, hop, signed8, hi]

/-- Every instruction is read back from its record, the terms no bytes encode included. -/
theorem instr?_record (i : Instr) : i.record.instr? = some i := by
  cases i
  case movReg8Imm8 reg imm => simp [Instr.record, Record.instr?, recMovImmReg]
  case addAlImm8 imm | subAlImm8 imm | cmpAlImm8 imm =>
    simp [Instr.record, Record.instr?, recArithImmAcc, Machine.arithOp?, accInstr8]
  case movReg16Imm16 | addAxImm16 | subAxImm16 | cmpAxImm16 => rfl
  case addRm8Imm8 | addRm8Imm8S | addRm16Simm8 | subRm8Imm8 | subRm8Imm8S | subRm16Simm8 | cmpRm8Imm8 | cmpRm8Imm8S |
      cmpRm16Simm8 =>
    exact instr?_recArithImmRm rfl (by simp [rmInstr8])
  case addRm16Imm16 | subRm16Imm16 | cmpRm16Imm16 => exact instr?_recArithImmRm rfl rfl
  case movRm8Reg8 | movRm16Reg16 | movReg8Rm8 | movReg16Rm16 | addRm8Reg8 | addRm16Reg16 | addReg8Rm8 | addReg16Rm16 |
      subRm8Reg8 | subRm16Reg16 | subReg8Rm8 | subReg16Rm16 | cmpRm8Reg8 | cmpRm16Reg16 | cmpReg8Rm8 | cmpReg16Rm16 =>
    exact instr?_recRmReg rfl rfl
  case loopnz | loopz | loop | jcxz => exact instr?_recJump (.inr rfl) rfl rfl
  all_goals exact instr?_recJump (.inl rfl) rfl rfl

/-- Settles O43: the record has a left inverse. -/
theorem recordsAreOneToOne : Obligations.RecordsAreOneToOne := by
  unfold Obligations.RecordsAreOneToOne
  intro i j h
  exact Option.some.inj (by rw [← instr?_record i, h, instr?_record j])

end Sys2Proof
end

section
/-! PROOFS, family 40_decoder_and_step. What a step does: its procedure, its progress, and the debug toggle (R110 to
R119). -/

namespace Sys2Proof.Machine

/-- Settles O27: `exec` is `retire` and then `Apply`, which classes 3 to 5 do not have. -/
theorem applyIsTheTableOfClasses : Obligations.ApplyIsTheTableOfClasses := by
  unfold Obligations.ApplyIsTheTableOfClasses
  exact fun i s => ⟨exec_eq i s, applyRecord_of_other_class s.cfg.accApply s.regs⟩

/-- Settles O31: one clause for each of the three cases of `step`. -/
theorem driverStepFollowsItsProcedure : Obligations.DriverStepFollowsItsProcedure := by
  unfold Obligations.DriverStepFollowsItsProcedure
  refine fun s hcap hrun _ => ⟨step_of_end hcap hrun, fun hlt => ⟨fun e => step_of_err hcap hrun hlt.ne, fun i hd => ?_⟩⟩
  have hx := exec_eq i s
  exact ⟨_, (step_of_decodeAt hcap hrun hd).trans hx, exec_retired hx⟩

/-- A step advances the cursor by an instruction within the stream, or ends the pass with the cursor kept (R115, R118). -/
theorem step_progress {s t : State} (h : step s = .next t) :
    (t.phase = .running ∧ s.cur + 2 ≤ t.cur ∧ t.cur ≤ s.cur + 6 ∧ t.cur ≤ s.buf.len) ∨
      (t.cur = s.cur ∧ (t.phase = .done ∨ t.phase = .failed)) := by
  obtain ⟨-, hrun, ⟨-, rfl⟩ | ⟨-, e, -, rfl⟩ | ⟨-, i, hd, hx⟩⟩ := step_cases h
  · exact .inr ⟨rfl, .inl rfl⟩
  · exact .inr ⟨rfl, .inr rfl⟩
  · obtain ⟨hcur, -, -, -, -, hphase, -⟩ := exec_retired hx
    obtain ⟨-, hmin, hmax⟩ := encodedLength i
    have hend := decodeAt_ok_end_le hd
    exact .inl ⟨hphase.trans hrun, by omega, by omega, by omega⟩

/-- Settles O34: the cursor and the phase by `step_progress`, the two constant fields by `step_buf_cfg`. -/
theorem everyStepMakesProgress : Obligations.EveryStepMakesProgress := by
  unfold Obligations.EveryStepMakesProgress
  exact fun s t _ h => ⟨step_progress h, step_buf_cfg h⟩

/-! ## Two states alike but for the debug lines (R117) -/

theorem Undebugged.withinCap {s u : State} (h : Undebugged s u) : u.withinCap = s.withinCap := by
  obtain ⟨-, -, -, -, -, hbufCap, -, hbuf⟩ := h
  unfold State.withinCap
  rw [hbufCap, hbuf]

theorem Undebugged.finish {s u : State} (h : Undebugged s u) : Undebugged s.finish u.finish := by
  obtain ⟨hregs, hcur, -, hrest⟩ := h
  exact ⟨hregs, hcur, rfl, hrest⟩

theorem Undebugged.raiseError {s u : State} (h : Undebugged s u) (e : ErrorRecord) :
    Undebugged (s.raiseError e) (u.raiseError e) := by
  obtain ⟨hregs, hcur, -, -, hrest⟩ := h
  exact ⟨hregs, hcur, rfl, rfl, hrest⟩

/-- One instruction retired in both states: the debug lines around its line are all that differs. -/
theorem Undebugged.exec {s u t v : State} (h : Undebugged s u) {i : Instr} (hs : exec i s = .next t)
    (hu : exec i u = .next v) : Undebugged t v := by
  obtain ⟨hregs, hcur, hphase, herr, hout, hbufCap, hmode, hbuf⟩ := h
  obtain ⟨hcurT, hregsT, -, houtT, -, hphaseT, herrT, hcfgT, hbufT⟩ := exec_retired hs
  obtain ⟨hcurV, hregsV, -, houtV, -, hphaseV, herrV, hcfgV, hbufV⟩ := exec_retired hu
  refine ⟨?_, ?_, ?_, ?_, ?_, ?_, ?_, ?_⟩
  · rw [hregsV, hregsT, hmode, hregs]
  · rw [hcurV, hcurT, hcur]
  · rw [hphaseV, hphaseT, hphase]
  · rw [herrV, herrT, herr]
  · rw [houtV, houtT, hout]
  · rw [hcfgV, hcfgT, hbufCap]
  · rw [hcfgV, hcfgT, hmode]
  · rw [hbufV, hbufT, hbuf]

/-- The same case of `step` is met in both states, because it is decided by fields on which they agree. -/
theorem Undebugged.step {s u t : State} (h : Undebugged s u) (hs : step s = .next t) :
    ∃ v, Machine.step u = .next v ∧ Undebugged t v := by
  obtain ⟨-, hcur, hphase, -, -, -, -, hbuf⟩ := id h
  obtain ⟨hcap, hrun, hcases⟩ := step_cases hs
  have hcapU : u.withinCap = true := h.withinCap.trans hcap
  have hrunU : u.phase = .running := hphase.trans hrun
  have hendU : u.cur = u.buf.len ↔ s.cur = s.buf.len := by rw [hcur, hbuf]
  have hdecU : decodeAt u.buf u.cur = decodeAt s.buf s.cur := by rw [hcur, hbuf]
  obtain ⟨hend, rfl⟩ | ⟨hne, e, hd, rfl⟩ | ⟨-, i, hd, hx⟩ := hcases
  · exact ⟨_, step_of_end hcapU hrunU (hendU.2 hend), h.finish⟩
  · exact ⟨_, step_of_err hcapU hrunU (mt hendU.1 hne) (hdecU.trans hd), h.raiseError e⟩
  · have hxU := exec_eq i u
    exact ⟨_, (step_of_decodeAt hcapU hrunU (hdecU.trans hd)).trans hxU, h.exec hx hxU⟩

/-- Where no next state exists, the cap and the phase alone decide how a step stops. -/
theorem step_eq_of_not_next {s u : State} (hcap : u.withinCap = s.withinCap) (hphase : u.phase = s.phase)
    (h : ∀ t, step s ≠ .next t) : step u = step s := by
  cases hc : s.withinCap with
  | false => rw [step_of_not_withinCap hc, step_of_not_withinCap (hcap.trans hc)]
  | true =>
    cases hp : s.phase with
    | running =>
      obtain ⟨t, ht⟩ := step_of_running hc hp
      exact absurd ht (h t)
    | done => rw [step_of_done hc hp, step_of_done (hcap.trans hc) (hphase.trans hp)]
    | failed => rw [step_of_failed hc hp, step_of_failed (hcap.trans hc) (hphase.trans hp)]

/-- Settles O50: next states are alike, and a step that stops is decided by the cap and the phase. -/
theorem debugLinesChangeNothingElse : Obligations.DebugLinesChangeNothingElse := by
  unfold Obligations.DebugLinesChangeNothingElse
  intro s u h
  obtain ⟨-, -, hphase, -⟩ := id h
  refine ⟨fun t => h.step, fun f hf => ?_, fun q hq => ?_⟩
  · exact (step_eq_of_not_next h.withinCap hphase (by simp [hf])).trans hf
  · exact (step_eq_of_not_next h.withinCap hphase (by simp [hq])).trans hq

end Sys2Proof.Machine
end

section
/-! PROOFS, family 40_decoder_and_step. A whole pass: the linear scan every step keeps, the bound on its steps, and what
its end means (R111, R113, R116). -/

namespace Sys2Proof.Machine

/-! ## The linear scan -/

/-- A scan goes on from where it ended with the instruction decoded there. -/
theorem sweepEnd_concat {m : Memory} {i : Instr} {d : Nat} (hd : decodeAt m d = .ok i) :
    ∀ {is : List Instr} {c : Nat}, sweepEnd m c is = some d → sweepEnd m c (is ++ [i]) = some (d + i.record.length)
  | [], c, h => by
    cases h
    exact if_pos hd
  | j :: is, c, h => by
    by_cases hj : decodeAt m c = .ok j
    · rw [sweepEnd, if_pos hj] at h
      rw [List.cons_append, sweepEnd, if_pos hj]
      exact sweepEnd_concat hd h
    · rw [sweepEnd, if_neg hj] at h
      cases h

theorem regsAfter_concat (mode : AccApply) (is : List Instr) (i : Instr) :
    regsAfter mode (is ++ [i]) = applyRecord mode i.record (regsAfter mode is) := by
  simp [regsAfter]

/-- The instruction decoded at the cursor joins the scan; its line and its effect come last. -/
theorem swept_exec {s t : State} {i : Instr} (h : s.Swept) (hd : decodeAt s.buf s.cur = .ok i)
    (hx : exec i s = .next t) : t.Swept := by
  obtain ⟨is, hscan, hlines, hregs⟩ := h
  obtain ⟨hcur, hregsT, -, hlinesT, -, -, -, hcfg, hbuf⟩ := exec_retired hx
  refine ⟨is ++ [i], ?_, ?_, ?_⟩
  · rw [hbuf, hcur]
    exact sweepEnd_concat hd hscan
  · rw [hlinesT, hlines, List.map_append, List.append_assoc]
    rfl
  · rw [hregsT, hcfg, regsAfter_concat, ← hregs]

/-- Settles O53: the two ends of a pass leave what is scanned alone, and an instruction joins it. -/
theorem everyStepKeepsTheLinearScan : Obligations.EveryStepKeepsTheLinearScan := by
  unfold Obligations.EveryStepKeepsTheLinearScan
  intro s t hswept h
  obtain ⟨-, -, ⟨-, rfl⟩ | ⟨-, e, -, rfl⟩ | ⟨-, i, hd, hx⟩⟩ := step_cases h
  · exact hswept
  · exact hswept
  · exact swept_exec hswept hd hx

/-! ## Running a pass (R111) -/

theorem runPass_of_not_running {s : State} (h : s.phase ≠ .running) : ∀ n, runPass n s = .next s
  | 0 => rfl
  | _ + 1 => if_neg h

theorem runPass_succ {s t : State} (hrun : s.phase = .running) (h : step s = .next t) (n : Nat) :
    runPass (n + 1) s = runPass n t := by
  simp [runPass, hrun, h]

/-- Every step keeps it, so every run does. -/
theorem runPass_keeps {P : State → Prop} (hstep : ∀ s t, P s → step s = .next t → P t) :
    ∀ (n : Nat) {s t : State}, P s → runPass n s = .next t → P t
  | 0, s, t, hs, h => by cases h; exact hs
  | n + 1, s, t, hs, h => by
    unfold runPass at h
    split at h
    · split at h
      · exact runPass_keeps hstep n (hstep _ _ hs ‹_›) h
      · cases h
      · cases h
    · cases h; exact hs

/-- A step that goes on takes at least two bytes of those left, so `n` steps are enough for fewer than `2 * n`. -/
theorem runPass_ends : ∀ (n : Nat) {s : State}, s.withinCap = true → s.cur ≤ s.buf.len → s.buf.len < s.cur + 2 * n →
    ∃ t, runPass n s = .next t ∧ t.phase ≠ .running
  | 0, s, _, hcur, hleft => by omega
  | n + 1, s, hcap, hcur, hleft => by
    by_cases hrun : s.phase = .running
    · obtain ⟨t, ht⟩ := step_of_running hcap hrun
      obtain ⟨hbuf, hcfg⟩ := step_buf_cfg ht
      rw [runPass_succ hrun ht]
      obtain ⟨-, hmin, -, hmax⟩ | ⟨-, hphase⟩ := step_progress ht
      · exact runPass_ends n ((withinCap_congr hcfg hbuf).trans hcap) (hbuf ▸ hmax) (by rw [hbuf]; omega)
      · have hne : t.phase ≠ .running := by obtain hp | hp := hphase <;> rw [hp] <;> nofun
        exact ⟨t, runPass_of_not_running hne n, hne⟩
    · exact ⟨s, runPass_of_not_running hrun _, hrun⟩

/-- Settles O55: half the bytes left, plus one, times two exceeds the bytes left. -/
theorem passEndsWithinHalfTheStream : Obligations.PassEndsWithinHalfTheStream := by
  unfold Obligations.PassEndsWithinHalfTheStream
  refine ⟨fun s hcap _ hcur => runPass_ends _ hcap hcur (by omega), fun s debug bytes => ?_⟩
  have hlen : (s.startPass none debug bytes).buf.len = bytes.length := ofBytes_len bytes
  refine runPass_ends _ rfl (Nat.zero_le _) ?_
  rw [hlen]
  omega

/-! ## What the end of a pass means (R113) -/

/-- What every state of a pass over a stream keeps: the invariant, the scan, the stream and the configuration it began
with, and no debug line while the toggle is off. -/
def InPass (cfg : Cfg) (buf : Memory) (s : State) : Prop :=
  s.Inv ∧ s.Swept ∧ s.cfg = cfg ∧ s.buf = buf ∧ (cfg.debug = false → instrLines s.out = s.out)

theorem inPass_step {cfg : Cfg} {buf : Memory} (s t : State) (h : InPass cfg buf s) (hstep : step s = .next t) :
    InPass cfg buf t := by
  obtain ⟨hinv, hswept, rfl, rfl, hplain⟩ := h
  obtain ⟨hbuf, hcfg⟩ := step_buf_cfg hstep
  refine ⟨everyStepKeepsTheInvariant s t hinv hstep, everyStepKeepsTheLinearScan s t hswept hstep, hcfg, hbuf,
    fun hd => ?_⟩
  obtain ⟨-, -, ⟨-, rfl⟩ | ⟨-, e, -, rfl⟩ | ⟨-, i, -, hx⟩⟩ := step_cases hstep
  · exact hplain hd
  · exact hplain hd
  · obtain ⟨-, -, -, hlines, hout, -⟩ := exec_retired hx
    rw [hlines, (hout hd).1, hplain hd]

theorem inPass_startPass (s : State) (cap : Option Nat) (debug : Bool) (bytes : List Byte)
    (hfit : ∀ c, cap = some c → bytes.length ≤ c) :
    InPass { s.cfg with bufCap := cap, debug := debug } (Memory.ofBytes bytes) (s.startPass cap debug bytes) := by
  obtain ⟨hinv, hswept⟩ := resetMeetsTheInvariant.2 s cap debug bytes hfit
  have hheader : instrLines header = header := by decide
  exact ⟨hinv, hswept, rfl, rfl, fun _ => hheader⟩

/-- Settles O56: what every step keeps, read at the end of the pass. -/
theorem endOfAPassMeansWhatItSays : Obligations.EndOfAPassMeansWhatItSays := by
  unfold Obligations.EndOfAPassMeansWhatItSays
  refine ⟨fun s t cap debug bytes n hfit hrun hended => ?_, fun s debug => ?_⟩
  · obtain ⟨⟨-, -, -, -, hphase⟩, ⟨is, hscan, hlines, hregs⟩, hcfg, hbuf, hplain⟩ :=
      runPass_keeps inPass_step n (inPass_startPass s cap debug bytes hfit) hrun
    rw [hbuf] at hscan
    rw [hcfg] at hregs
    refine ⟨is, hscan, hlines, fun hd => (hplain hd).symm.trans hlines, hregs, fun hdone => ?_, fun hfailed => ?_,
      fun u hu => ?_⟩
    · obtain ⟨herr, hcur⟩ := (phaseOk_done hdone).1 hphase
      exact ⟨hcur.trans (hbuf ▸ ofBytes_len bytes), herr⟩
    · obtain ⟨e, herr, hoff, -, hd⟩ := (phaseOk_failed hfailed).1 hphase
      exact ⟨e, herr, hoff, hbuf ▸ hd⟩
    · obtain ⟨-, hrunning, -⟩ := step_cases hu
      exact hended hrunning
  · exact ⟨_, step_of_end rfl rfl rfl, rfl, rfl, rfl, readWord_replicate 0#16⟩

end Sys2Proof.Machine
end

section
/-! PROOFS, family 41_mov_imm_reg. An instruction's rule from its encoding, its record and its truncation; then class 1
(R131, R132). -/

namespace Sys2Proof

/-! ## Class 1 from its first byte on (R61, R71) -/

theorem decodeBytes_cons_mov8 (reg : Reg3) (rest : List Byte) :
    decodeBytes ((0b10110#5 ++ reg) :: rest) = decodeMovImmReg false reg rest := by
  obtain ⟨hclass, hw, hreg⟩ := fields_class1_byte reg
  rw [decodeBytes_class1 hclass, hw, hreg]

theorem decodeBytes_cons_mov16 (reg : Reg3) (rest : List Byte) :
    decodeBytes ((0b10111#5 ++ reg) :: rest) = decodeMovImmReg true reg rest := by
  obtain ⟨hclass, hw, hreg⟩ := fields_class1_word reg
  rw [decodeBytes_class1 hclass, hw, hreg]

@[simp] theorem wordBytes_mkWord (hi lo : Byte) : wordBytes (mkWord hi lo) = [lo, hi] := by
  simp [wordBytes]

end Sys2Proof

namespace Sys2Proof.Machine

/-! ## What makes a rule hold -/

/-- The bytes available are those of the window when it is shorter than the longest instruction (R106). -/
theorem decodeAt_truncated_of_window {m : Memory} {c n : Nat} {bytes : List Byte}
    (hwin : m.window c Config.maxLen = bytes) (hshort : bytes.length < Config.maxLen)
    (h : decodeBytes bytes = .truncatedInstruction n) :
    decodeAt m c = .err (.truncatedInstruction c n bytes.length) := by
  have hlen := window_length m Config.maxLen c
  rw [hwin] at hlen
  have havail : m.len - c = bytes.length := by omega
  rw [← havail]
  exact decodeAt_truncated (hwin ▸ h)

/-- A rule of 41 to 45 for an instruction, from what its definition says: its encoding, its record, its line, what
decoding answers where the stream ends inside the encoding, and what `Apply` of its record leaves. -/
theorem ruleHolds_of_encode {i : Instr} {bytes : List Byte} {hasMod : Bool} {D : Record} {line : Text}
    {pre : State → Prop} {regs : State → Regs} (hwf : i.wellFormed = true) (henc : encode i = bytes)
    (hrec : i.record = D) (hline : render D = line)
    (htrunc : ∀ k, 0 < k → k < bytes.length → decodeBytes (bytes.take k) =
      .truncatedInstruction (if hasMod = true ∧ k = 1 then 2 else bytes.length))
    (hregs : ∀ s, pre s → applyRecord s.cfg.accApply D s.regs = regs s) :
    RuleHolds i bytes hasMod D line pre regs := by
  subst henc hrec hline
  obtain ⟨hlen, -, hmax⟩ := encodedLength i
  refine ⟨fun m c => decodeAt_of_encode hwf, rfl, hlen, fun m c k hpos hk hwin => ?_, fun s hs => ?_⟩
  · have htake : ((encode i).take k).length = k := List.length_take_of_le hk.le
    have hshort : k < Config.maxLen := hk.trans_le (hlen ▸ hmax)
    have herr := decodeAt_truncated_of_window hwin (htake.trans_lt hshort) (htrunc k hpos hk)
    rwa [htake] at herr
  · have hx := exec_eq i s
    exact ⟨_, hx, hregs s hs ▸ exec_retired hx⟩

/-! ## Class 1 -/

theorem render_recMovImmReg (w : Bool) (reg : Reg3) (n : Nat) (v : Word) :
    render (recMovImmReg w reg n v) = "mov " ++ regName reg w ++ ", " ++ immText w v := rfl

theorem immText_zext16 (imm : Byte) : immText false (zext16 imm) = dec imm.toNat := by
  simp [immText]

/-- A class 1 record at byte width writes one half of a register (R131). -/
theorem applyRecord_mov8 (mode : AccApply) (reg : Reg3) (n : Nat) (imm : Byte) (r : Regs) :
    applyRecord mode (recMovImmReg false reg n (zext16 imm)) r = writeByte r reg imm := by
  simp [applyRecord, applyMovRecord, recMovImmReg]

/-- A class 1 record at word width writes a register (R132). -/
theorem applyRecord_mov16 (mode : AccApply) (reg : Reg3) (n : Nat) (imm : Word) (r : Regs) :
    applyRecord mode (recMovImmReg true reg n imm) r = writeWord r reg imm := rfl

/-- Settles O7: a stream can end inside it after the first byte only, and `Apply` of the record writes the byte register. -/
theorem movReg8Imm8MeetsItsRule : Obligations.MovReg8Imm8MeetsItsRule := by
  unfold Obligations.MovReg8Imm8MeetsItsRule
  intro reg imm
  have hline : render (recMovImmReg false reg 1 (zext16 imm)) = "mov " ++ regName reg false ++ ", " ++ dec imm.toNat := by
    rw [render_recMovImmReg, immText_zext16]
  refine ruleHolds_of_encode rfl rfl rfl hline (fun k hpos hk => ?_)
    fun s _ => applyRecord_mov8 s.cfg.accApply reg 1 imm s.regs
  obtain rfl : k = 1 := by simp only [List.length_cons, List.length_nil] at hk; omega
  exact decodeBytes_cons_mov8 reg []

/-- Settles O8: a stream that ends inside it lacks the high byte, and `Apply` of the record writes the word register. -/
theorem movReg16Imm16MeetsItsRule : Obligations.MovReg16Imm16MeetsItsRule := by
  unfold Obligations.MovReg16Imm16MeetsItsRule
  intro reg lo hi
  have henc : encode (.movReg16Imm16 reg (mkWord hi lo)) = [0b10111#5 ++ reg, lo, hi] :=
    congrArg (_ :: ·) (wordBytes_mkWord hi lo)
  refine ruleHolds_of_encode rfl henc rfl (render_recMovImmReg true reg 2 (mkWord hi lo)) (fun k hpos hk => ?_)
    fun s _ => applyRecord_mov16 s.cfg.accApply reg 2 (mkWord hi lo) s.regs
  obtain rfl | rfl : k = 1 ∨ k = 2 := by simp only [List.length_cons, List.length_nil] at hk; omega
  · exact decodeBytes_cons_mov16 reg []
  · exact decodeBytes_cons_mov16 reg [lo]

end Sys2Proof.Machine
end

section
/-! PROOFS, family 42_arith_imm_acc. Class 2 from its first byte, its record and its line; what `Apply` leaves in the
accumulator under either setting of `P_ACC_APPLY` (R140 to R147). -/

namespace Sys2Proof

/-! ## The record of a class 2 instruction (R140) -/

/-- The operation a class 2 record names, the inverse of `arithOp?`. -/
def ArithOp.toOp : ArithOp → Op
  | .add => .add
  | .sub => .sub
  | .cmp => .cmp

theorem arithOp?_toOp (a : ArithOp) : Machine.arithOp? a.toOp = some a := by cases a <;> rfl

theorem record_accInstr8 (a : ArithOp) (imm : Byte) :
    (accInstr8 a imm).record = recArithImmAcc a.toOp false 1 (zext16 imm) := by
  cases a <;> rfl

theorem record_accInstr16 (a : ArithOp) (imm : Word) :
    (accInstr16 a imm).record = recArithImmAcc a.toOp true 2 imm := by
  cases a <;> rfl

/-! ## The encoding of a class 2 instruction (R62) -/

theorem wellFormed_accInstr8 (a : ArithOp) (imm : Byte) : (accInstr8 a imm).wellFormed = true := by cases a <;> rfl

theorem wellFormed_accInstr16 (a : ArithOp) (imm : Word) : (accInstr16 a imm).wellFormed = true := by cases a <;> rfl

end Sys2Proof

namespace Sys2Proof.Machine

/-! ## What class 2 writes to the accumulator (R147) -/

theorem accResult_arith_add {n : Nat} (acc imm : BitVec n) :
    accResult .arith .add acc imm = some (BitVec.ofNat n ((acc.toNat + imm.toNat) % 2 ^ n)) :=
  congrArg some (BitVec.eq_of_toNat_eq (by simp))

/-- The borrow is dropped: the difference is taken modulo `2 ^ n`, never truncated at zero. -/
theorem accResult_arith_sub {n : Nat} (acc imm : BitVec n) :
    accResult .arith .sub acc imm = some (BitVec.ofNat n ((acc.toNat + 2 ^ n - imm.toNat) % 2 ^ n)) := by
  refine congrArg some (BitVec.eq_of_toNat_eq ?_)
  have hrot : 2 ^ n - imm.toNat + acc.toNat = acc.toNat + 2 ^ n - imm.toNat := by
    have := imm.isLt
    omega
  rw [BitVec.toNat_sub, hrot, BitVec.toNat_ofNat, Nat.mod_mod]

theorem accResult_loadImm {n : Nat} (op : ArithOp) (acc imm : BitVec n) : accResult .loadImm op acc imm = some imm := rfl

theorem applyRecord_accInstr8 (mode : AccApply) (a : ArithOp) (imm : Byte) (r : Regs) :
    applyRecord mode (accInstr8 a imm).record r =
      (accResult mode a (readByte r 0#3) imm).elim r (writeByte r 0#3) := by
  rw [record_accInstr8, applyRecord_acc8 (arithOp?_toOp a), loByte_zext16]

theorem applyRecord_accInstr16 (mode : AccApply) (a : ArithOp) (imm : Word) (r : Regs) :
    applyRecord mode (accInstr16 a imm).record r =
      (accResult mode a (readWord r 0#3) imm).elim r (writeWord r 0#3) := by
  rw [record_accInstr16, applyRecord_acc16 (arithOp?_toOp a)]

/-! ## The line of a class 2 instruction (R219) -/

theorem render_accInstr8 (a : ArithOp) (imm : Byte) :
    render (accInstr8 a imm).record = opText a.toOp ++ " " ++ regName 0#3 false ++ ", " ++ dec imm.toNat := by
  rw [record_accInstr8, ← immText_zext16]
  rfl

theorem render_accInstr16 (a : ArithOp) (imm : Word) :
    render (accInstr16 a imm).record = opText a.toOp ++ " " ++ regName 0#3 true ++ ", " ++ dec imm.toNat := by
  rw [record_accInstr16]
  rfl

/-! ## The rules of class 2 -/

section
variable {b0 : Byte} {a : ArithOp} {pre : State → Prop} {regs : State → Regs} (hop : accOp? (field b0 1 7) = some a)
include hop

/-- A byte form's rule, from what `Apply` leaves in `al`: a stream can end inside it after the first byte only. -/
theorem ruleHolds_acc8 (hw : bit b0 0 = false) (imm : Byte)
    (hregs : ∀ s, pre s →
      (accResult s.cfg.accApply a (readByte s.regs 0#3) imm).elim s.regs (writeByte s.regs 0#3) = regs s) :
    RuleHolds (accInstr8 a imm) [b0, imm] false (accInstr8 a imm).record
      (opText a.toOp ++ " " ++ regName 0#3 false ++ ", " ++ dec imm.toNat) pre regs := by
  have henc : encode (accInstr8 a imm) = [b0, imm] := by
    rw [encode_accInstr8 hop, ← hw, ← byte_eq_class2_fields]
  refine ruleHolds_of_encode (wellFormed_accInstr8 a imm) henc rfl (render_accInstr8 a imm) (fun k hpos hk => ?_)
    fun s hs => (applyRecord_accInstr8 _ a imm s.regs).trans (hregs s hs)
  obtain rfl : k = 1 := by simp only [List.length_cons, List.length_nil] at hk; omega
  simp [decodeBytes_class2 hop, hw, decodeArithImmAcc]

/-- A word form's rule, from what `Apply` leaves in `ax`: a stream can end inside it before either immediate byte. -/
theorem ruleHolds_acc16 (hw : bit b0 0 = true) (lo hi : Byte)
    (hregs : ∀ s, pre s →
      (accResult s.cfg.accApply a (readWord s.regs 0#3) (mkWord hi lo)).elim s.regs (writeWord s.regs 0#3) = regs s) :
    RuleHolds (accInstr16 a (mkWord hi lo)) [b0, lo, hi] false (accInstr16 a (mkWord hi lo)).record
      (opText a.toOp ++ " " ++ regName 0#3 true ++ ", " ++ dec (mkWord hi lo).toNat) pre regs := by
  have henc : encode (accInstr16 a (mkWord hi lo)) = [b0, lo, hi] := by
    rw [encode_accInstr16 hop, ← hw, ← byte_eq_class2_fields, wordBytes_mkWord]
  refine ruleHolds_of_encode (wellFormed_accInstr16 a _) henc rfl (render_accInstr16 a _) (fun k hpos hk => ?_)
    fun s hs => (applyRecord_accInstr16 _ a _ s.regs).trans (hregs s hs)
  obtain rfl | rfl : k = 1 ∨ k = 2 := by simp only [List.length_cons, List.length_nil] at hk; omega
  · simp [decodeBytes_class2 hop, hw, decodeArithImmAcc]
  · simp [decodeBytes_class2 hop, hw, decodeArithImmAcc]

end

/-- Settles O9: the sum is taken modulo 256 and written to `al` alone. -/
theorem addAlImm8MeetsItsRule : Obligations.AddAlImm8MeetsItsRule := by
  unfold Obligations.AddAlImm8MeetsItsRule
  refine fun imm => ruleHolds_acc8 (a := .add) rfl rfl imm fun s hs => ?_
  rw [hs, accResult_arith_add]
  rfl

/-- Settles O10: the sum is taken modulo 65536. -/
theorem addAxImm16MeetsItsRule : Obligations.AddAxImm16MeetsItsRule := by
  unfold Obligations.AddAxImm16MeetsItsRule
  refine fun lo hi => ruleHolds_acc16 (a := .add) rfl rfl lo hi fun s hs => ?_
  rw [hs, accResult_arith_add]
  rfl

/-- Settles O11: the difference is taken modulo 256 and written to `al` alone. -/
theorem subAlImm8MeetsItsRule : Obligations.SubAlImm8MeetsItsRule := by
  unfold Obligations.SubAlImm8MeetsItsRule
  refine fun imm => ruleHolds_acc8 (a := .sub) rfl rfl imm fun s hs => ?_
  rw [hs, accResult_arith_sub]
  rfl

/-- Settles O12: the difference is taken modulo 65536. -/
theorem subAxImm16MeetsItsRule : Obligations.SubAxImm16MeetsItsRule := by
  unfold Obligations.SubAxImm16MeetsItsRule
  refine fun lo hi => ruleHolds_acc16 (a := .sub) rfl rfl lo hi fun s hs => ?_
  rw [hs, accResult_arith_sub]
  rfl

/-- Settles O13: at either width compare has no result to write. -/
theorem cmpAccumulatorMeetsItsRules : Obligations.CmpAccumulatorMeetsItsRules := by
  unfold Obligations.CmpAccumulatorMeetsItsRules
  refine ⟨fun imm => ruleHolds_acc8 (a := .cmp) rfl rfl imm fun s hs => ?_,
    fun lo hi => ruleHolds_acc16 (a := .cmp) rfl rfl lo hi fun s hs => ?_⟩
  · rw [hs]
    rfl
  · rw [hs]
    rfl

/-! ## The setting this hardware does not take (D11) -/

/-- An instruction completes and retires, with its length and what `Apply` of its record leaves given. -/
theorem exists_exec_retired {i : Instr} {s : State} {n : Nat} {r : Regs} (hlen : i.record.length = n)
    (hregs : applyRecord s.cfg.accApply i.record s.regs = r) :
    ∃ t, exec i s = .next t ∧ Retired s t n (render i.record) r := by
  subst hlen hregs
  exact ⟨_, exec_eq i s, exec_retired (exec_eq i s)⟩

/-- Under `loadImm` a byte form of any operation loads `al`. -/
theorem exec_accInstr8_of_loadImm {s : State} (hs : s.cfg.accApply = .loadImm) (a : ArithOp) (imm : Byte) :
    ∃ t, exec (accInstr8 a imm) s = .next t ∧
      Retired s t 2 (render (accInstr8 a imm).record) (writeByte s.regs 0#3 imm) := by
  refine exists_exec_retired (accInstr8_length a imm) ?_
  rw [applyRecord_accInstr8, hs, accResult_loadImm]
  rfl

/-- Under `loadImm` a word form of any operation loads `ax`. -/
theorem exec_accInstr16_of_loadImm {s : State} (hs : s.cfg.accApply = .loadImm) (a : ArithOp) (imm : Word) :
    ∃ t, exec (accInstr16 a imm) s = .next t ∧
      Retired s t 3 (render (accInstr16 a imm).record) (writeWord s.regs 0#3 imm) := by
  refine exists_exec_retired (accInstr16_length a imm) ?_
  rw [applyRecord_accInstr16, hs, accResult_loadImm]
  rfl

/-- Settles O14: the three instructions of a width differ in the operation alone, and `loadImm` does not look at it. -/
theorem loadImmSettingLoadsTheAccumulator : Obligations.LoadImmSettingLoadsTheAccumulator := by
  unfold Obligations.LoadImmSettingLoadsTheAccumulator
  refine fun s hs => ⟨fun imm i hi => ?_, fun imm i hi => ?_⟩
  · have hmem : i ∈ [ArithOp.add, .sub, .cmp].map (accInstr8 · imm) := hi
    obtain ⟨a, -, rfl⟩ := List.mem_map.1 hmem
    exact exec_accInstr8_of_loadImm hs a imm
  · have hmem : i ∈ [ArithOp.add, .sub, .cmp].map (accInstr16 · imm) := hi
    obtain ⟨a, -, rfl⟩ := List.mem_map.1 hmem
    exact exec_accInstr16_of_loadImm hs a imm

end Sys2Proof.Machine
end

section
/-! PROOFS, family 43_arith_imm_rm. Class 3 where the stream ends inside it, its record and its line, then the four
sign/width forms of a sub-operation at once (R150 to R157). -/

namespace Sys2Proof

/-! ## The sizes of an operand (R68) -/

theorem RmOperand.length_dispBytes (rm : RmOperand) : rm.dispBytes.length = rm.dispSize := by cases rm <;> rfl

/-- The decoder's count of displacement bytes is the operand's; the direct address is the operand of `mod = 0b00` with
`rm = 0b110`. -/
theorem dispSize3_encoded {rm : RmOperand} (h : rm.class3Ok = true) : dispSize3 rm.modBits rm.rmField = rm.dispSize := by
  cases rm with
  | mem0 r => exact if_neg (bne_iff_ne.1 h)
  | reg r | mem8 r d | mem16 r v | direct v => rfl

/-! ## Class 3 where the stream ends inside it (R106) -/

/-- The operand takes its displacement bytes, so what is left cannot hold the immediate. -/
theorem decodeArithImmRm_truncated {op : ArithOp} {s w : Bool} {mod : BitVec 2} {rm : Reg3} {rest : List Byte}
    (hshort : rest.length < dispSize3 mod rm + immSize3 s w) :
    decodeArithImmRm op s w mod rm rest = .truncatedInstruction (2 + dispSize3 mod rm + immSize3 s w) := by
  unfold decodeArithImmRm
  cases hread : rmOperand3 mod rm rest with
  | none => rfl
  | some read =>
    obtain ⟨operand, more⟩ := read
    obtain ⟨hok, rfl, rfl, rfl⟩ := rmOperand3_reads hread
    have hmore : more.length < immSize3 s w := by
      rw [List.length_append, operand.length_dispBytes, dispSize3_encoded hok] at hshort
      omega
    unfold immSize3 at hmore ⊢
    split_ifs at hmore ⊢ with hsw
    · match more, hmore with
      | [], _ | [_], _ => rfl
    · rw [List.length_eq_zero_iff.1 (Nat.lt_one_iff.1 hmore)]

section
variable {b0 : Byte} {op : ArithOp} {mid : Reg3} {rm : RmOperand} (hclass : field b0 2 6 = 0b100000#6)
  (hsub : subOp? mid = some op)
include hclass hsub

/-- Class 3 from its mod byte on: the sub-operation, `mod` and `rm` are read back (R63, R81). -/
theorem decodeBytes_class3_modByte (mod : BitVec 2) (r : Reg3) (rest : List Byte) :
    decodeBytes (b0 :: modByte mod mid r :: rest) = decodeArithImmRm op (bit b0 1) (bit b0 0) mod r rest := by
  obtain ⟨hmod, hmid, hr⟩ := field_modByte mod mid r
  rw [decodeBytes_class3 hclass]
  simp only [decodeClass3, hmod, hmid, hr, hsub]

/-- A proper prefix of an encoding is truncated: the first byte alone lacks its mod byte, any longer one names the whole
length. -/
theorem decodeBytes_class3_take (hrm : rm.class3Ok = true) {imm : List Byte}
    (himm : imm.length = immSize3 (bit b0 1) (bit b0 0)) {k : Nat} (hpos : 0 < k)
    (hk : k < (b0 :: (rm.encode mid ++ imm)).length) :
    decodeBytes ((b0 :: (rm.encode mid ++ imm)).take k) =
      .truncatedInstruction (if k = 1 then 2 else (b0 :: (rm.encode mid ++ imm)).length) := by
  have hdisp := dispSize3_encoded hrm
  have hlen : (b0 :: (rm.encode mid ++ imm)).length =
      2 + dispSize3 rm.modBits rm.rmField + immSize3 (bit b0 1) (bit b0 0) := by
    simp only [RmOperand.encode_eq, List.cons_append, List.length_cons, List.length_append, rm.length_dispBytes, himm, hdisp]
    omega
  match k, hpos with
  | 1, _ => exact decodeBytes_class3 hclass []
  | j + 2, _ =>
    have hshort : ((rm.dispBytes ++ imm).take j).length <
        dispSize3 rm.modBits rm.rmField + immSize3 (bit b0 1) (bit b0 0) :=
      (List.length_take_le _ _).trans_lt (by omega)
    rw [hlen, if_neg (by omega), RmOperand.encode_eq, List.cons_append, List.take_succ_cons, List.take_succ_cons,
      decodeBytes_class3_modByte hclass hsub]
    exact decodeArithImmRm_truncated hshort

end

/-! ## The record of a class 3 instruction (R150 to R152) -/

theorem record_rmInstr8_byte (a : ArithOp) (s : Bool) (rm : RmOperand) (imm : Byte) :
    (rmInstr8 a s false rm imm).record = recArithImmRm a.toOp s false rm 1 (zext16 imm) := by
  cases a <;> cases s <;> rfl

theorem record_rmInstr8_word (a : ArithOp) (rm : RmOperand) (imm : Byte) :
    (rmInstr8 a true true rm imm).record = recArithImmRm a.toOp true true rm 1 (sext16 imm) := by
  cases a <;> rfl

theorem record_rmInstr16 (a : ArithOp) (rm : RmOperand) (imm : Word) :
    (rmInstr16 a rm imm).record = recArithImmRm a.toOp false true rm 2 imm := by
  cases a <;> rfl

end Sys2Proof

namespace Sys2Proof.Machine

/-! ## The line of a class 3 instruction (R216, R220) -/

/-- The size qualifier stands before a memory operand only, as in `rmText3`. -/
theorem render_recArithImmRm (op : Op) (s w : Bool) (rm : RmOperand) (n : Nat) (v : Word) :
    render (recArithImmRm op s w rm n v) = opText op ++ " " ++ rmText3 w rm ++ ", " ++ immText w v := by
  have hsized (mem : Text) : opText op ++ " " ++ sizeText w ++ " " ++ mem ++ ", " ++ immText w v =
      opText op ++ " " ++ (sizeText w ++ " " ++ mem) ++ ", " ++ immText w v := by
    simp only [String.append_assoc]
  cases rm with
  | reg r => rfl
  | mem0 r =>
    have hbracket : sizeText w ++ " " ++ ("[" ++ baseText r ++ "]") = rmText3 w (.mem0 r) := by
      simp only [rmText3, String.append_assoc]
      rfl
    rw [← hbracket]
    exact hsized _
  | mem8 r d | mem16 r d | direct a => exact hsized _

/-! ## The rules of class 3 -/

/-- A class 3 instruction's rule, from its encoding and its record: `Apply` leaves every register (R156). -/
theorem ruleHolds_rmImm {i : Instr} {b0 : Byte} {a : ArithOp} {mid : Reg3} {rm : RmOperand} {imm : List Byte} {v : Word}
    (hclass : field b0 2 6 = 0b100000#6) (hsub : subOp? mid = some a) (hrm : rm.class3Ok = true)
    (himm : imm.length = immSize3 (bit b0 1) (bit b0 0)) (hwf : i.wellFormed = rm.class3Ok)
    (henc : encode i = b0 :: (rm.encode mid ++ imm))
    (hrec : i.record = recArithImmRm a.toOp (bit b0 1) (bit b0 0) rm imm.length v) :
    RuleHolds i (b0 :: (rm.encode mid ++ imm)) true (recArithImmRm a.toOp (bit b0 1) (bit b0 0) rm imm.length v)
      (opText a.toOp ++ " " ++ rmText3 (bit b0 0) rm ++ ", " ++ immText (bit b0 0) v) (fun _ => True) (fun t => t.regs) :=
  ruleHolds_of_encode (hwf.trans hrm) henc hrec (render_recArithImmRm a.toOp _ _ rm _ v)
    (fun _ hpos hk => by simpa using decodeBytes_class3_take hclass hsub hrm himm hpos hk) fun _ _ => rfl

section
variable {a : ArithOp} {mid : Reg3} {rm : RmOperand} (hsub : subOp? mid = some a) (hrm : rm.class3Ok = true)
include hsub hrm

/-- First bytes 0x80 and 0x82: the immediate byte is zero-extended, whatever `s` (R72, R151). -/
theorem ruleHolds_rmImm8 (s : Bool) (imm : Byte) :
    RuleHolds (rmInstr8 a s false rm imm)
      ((0b100000#6 ++ BitVec.ofBool s ++ BitVec.ofBool false) :: (rm.encode mid ++ [imm])) true
      (recArithImmRm a.toOp s false rm 1 (zext16 imm))
      (opText a.toOp ++ " " ++ rmText3 false rm ++ ", " ++ dec imm.toNat) (fun _ => True) (fun t => t.regs) := by
  have henc := encode_rmInstr8 hsub (s := s) (w := false) (by simp) rm imm
  rw [← immText_zext16]
  cases s <;> exact ruleHolds_rmImm rfl hsub hrm rfl (rmInstr8_wellFormed ..) henc (record_rmInstr8_byte ..)

/-- First byte 0x83: the immediate byte is sign-extended (R72, R151). -/
theorem ruleHolds_rmSimm8 (imm : Byte) :
    RuleHolds (rmInstr8 a true true rm imm) (0x83#8 :: (rm.encode mid ++ [imm])) true
      (recArithImmRm a.toOp true true rm 1 (sext16 imm))
      (opText a.toOp ++ " " ++ rmText3 true rm ++ ", " ++ dec (sext16 imm).toNat) (fun _ => True) (fun t => t.regs) :=
  ruleHolds_rmImm rfl hsub hrm rfl (rmInstr8_wellFormed ..) (encode_rmInstr8 hsub (by simp) rm imm)
    (record_rmInstr8_word ..)

/-- First byte 0x81: two immediate bytes, the low one first (R72, R151). -/
theorem ruleHolds_rmImm16 (lo hi : Byte) :
    RuleHolds (rmInstr16 a rm (mkWord hi lo)) (0x81#8 :: (rm.encode mid ++ [lo, hi])) true
      (recArithImmRm a.toOp false true rm 2 (mkWord hi lo))
      (opText a.toOp ++ " " ++ rmText3 true rm ++ ", " ++ dec (mkWord hi lo).toNat) (fun _ => True) (fun t => t.regs) := by
  have henc := encode_rmInstr16 hsub rm (mkWord hi lo)
  rw [wordBytes_mkWord] at henc
  exact ruleHolds_rmImm rfl hsub hrm rfl (rmInstr16_wellFormed ..) henc (record_rmInstr16 ..)

end

/-- Settles O15: the four forms of selector 000, each by its row of the immediate's table (R151). -/
theorem addRmImmMeetsItsRule : Obligations.AddRmImmMeetsItsRule := by
  unfold Obligations.AddRmImmMeetsItsRule
  exact fun rm hrm => ⟨ruleHolds_rmImm8 (a := .add) rfl hrm false, ruleHolds_rmImm16 (a := .add) rfl hrm,
    ruleHolds_rmImm8 (a := .add) rfl hrm true, ruleHolds_rmSimm8 (a := .add) rfl hrm⟩

/-- Settles O16: the four forms of selector 101, each by its row of the immediate's table (R151). -/
theorem subRmImmMeetsItsRule : Obligations.SubRmImmMeetsItsRule := by
  unfold Obligations.SubRmImmMeetsItsRule
  exact fun rm hrm => ⟨ruleHolds_rmImm8 (a := .sub) rfl hrm false, ruleHolds_rmImm16 (a := .sub) rfl hrm,
    ruleHolds_rmImm8 (a := .sub) rfl hrm true, ruleHolds_rmSimm8 (a := .sub) rfl hrm⟩

/-- Settles O17: the four forms of selector 111, each by its row of the immediate's table (R151). -/
theorem cmpRmImmMeetsItsRule : Obligations.CmpRmImmMeetsItsRule := by
  unfold Obligations.CmpRmImmMeetsItsRule
  exact fun rm hrm => ⟨ruleHolds_rmImm8 (a := .cmp) rfl hrm false, ruleHolds_rmImm16 (a := .cmp) rfl hrm,
    ruleHolds_rmImm8 (a := .cmp) rfl hrm true, ruleHolds_rmSimm8 (a := .cmp) rfl hrm⟩

end Sys2Proof.Machine
end

section
/-! PROOFS, family 44_rm_reg. Class 4 where the stream ends inside it, its record and its line, then the rule of every
operation, direction and width at once (R165 to R173). -/

namespace Sys2Proof

/-! ## Class 4 where the stream ends inside it (R69, R173) -/

/-- The decoder's count of displacement bytes is the operand's; there is no direct address (R171). -/
theorem dispSize4_encoded {rm : RmOperand} (h : rm.class4Ok = true) : dispSize4 rm.modBits = rm.dispSize := by
  cases rm with
  | direct a => cases h
  | reg r | mem0 r | mem8 r d | mem16 r v => rfl

/-- An operand that could be read would have taken its displacement bytes from `rest`. -/
theorem decodeRmReg_truncated {op : RmRegOp} {d w : Bool} {mod : BitVec 2} {reg rm : Reg3} {rest : List Byte}
    (hshort : rest.length < dispSize4 mod) :
    decodeRmReg op d w mod reg rm rest = .truncatedInstruction (2 + dispSize4 mod) := by
  unfold decodeRmReg
  cases hread : rmOperand4 mod rm rest with
  | none => rfl
  | some read =>
    obtain ⟨operand, more⟩ := read
    obtain ⟨hok, rfl, rfl, rfl⟩ := rmOperand4_reads hread
    rw [List.length_append, operand.length_dispBytes, dispSize4_encoded hok] at hshort
    omega

section
variable {b0 : Byte} {op : RmRegOp} (hop : rmRegOp? (field b0 2 6) = some op)
include hop

/-- Class 4 from its mod byte on: `mod`, `reg` and `rm` are read back (R64, R165). -/
theorem decodeBytes_class4_modByte (mod : BitVec 2) (reg r : Reg3) (rest : List Byte) :
    decodeBytes (b0 :: modByte mod reg r :: rest) = decodeRmReg op (bit b0 1) (bit b0 0) mod reg r rest := by
  obtain ⟨hmod, hreg, hr⟩ := field_modByte mod reg r
  rw [decodeBytes_class4 hop]
  simp only [decodeClass4, hmod, hreg, hr]

/-- A proper prefix of an encoding is truncated: the first byte alone lacks its mod byte, any longer one lacks a
displacement byte and names the whole length (R173). -/
theorem decodeBytes_class4_take {rm : RmOperand} (hrm : rm.class4Ok = true) (reg : Reg3) {k : Nat} (hpos : 0 < k)
    (hk : k < (b0 :: rm.encode reg).length) :
    decodeBytes ((b0 :: rm.encode reg).take k) =
      .truncatedInstruction (if k = 1 then 2 else (b0 :: rm.encode reg).length) := by
  have hlen : (b0 :: rm.encode reg).length = 2 + dispSize4 rm.modBits := by
    rw [RmOperand.encode_eq, List.length_cons, List.length_cons, rm.length_dispBytes, dispSize4_encoded hrm, Nat.add_comm 2]
  match k, hpos with
  | 1, _ => exact decodeBytes_class4 hop []
  | j + 2, _ =>
    have hshort : (rm.dispBytes.take j).length < dispSize4 rm.modBits := (List.length_take_le _ _).trans_lt (by omega)
    rw [hlen, if_neg (by omega), RmOperand.encode_eq, List.take_succ_cons, List.take_succ_cons,
      decodeBytes_class4_modByte hop]
    exact decodeRmReg_truncated hshort

end

/-! ## The record of a class 4 instruction (R165) -/

/-- The operation a class 4 record names. -/
def RmRegOp.toOp : RmRegOp → Op
  | .mov => .mov
  | .add => .add
  | .sub => .sub
  | .cmp => .cmp

theorem record_rmRegInstr (op : RmRegOp) (d w : Bool) (rm : RmOperand) (reg : Reg3) :
    (rmRegInstr op d w rm reg).record = recRmReg op.toOp d w rm reg := by
  cases op <;> cases d <;> cases w <;> rfl

end Sys2Proof

namespace Sys2Proof.Machine

/-! ## The line of a class 4 instruction (R221) -/

theorem rmField_recRmReg (op : Op) (d w : Bool) (rm : RmOperand) (reg : Reg3) :
    rmField (recRmReg op d w rm reg) = rmText4 w rm := by
  cases rm <;> rfl

/-- The destination stands first: the register operand when `d` is set, else the r/m operand (R166). -/
theorem render_recRmReg (op : Op) (d w : Bool) (rm : RmOperand) (reg : Reg3) :
    render (recRmReg op d w rm reg) = opText op ++ " " ++ (if d then regName reg w else rmText4 w rm) ++ ", " ++
      (if d then rmText4 w rm else regName reg w) := by
  rw [← rmField_recRmReg op d w rm reg]
  cases d <;> rfl

/-! ## The rules of class 4 -/

/-- A class 4 instruction's rule, whatever its first byte: `Apply` leaves every register (R172). -/
theorem ruleHolds_rmReg (b0 : Byte) {op : RmRegOp} {rm : RmOperand} (hop : rmRegOp? (field b0 2 6) = some op)
    (hrm : rm.class4Ok = true) (reg : Reg3) :
    RuleHolds (rmRegInstr op (bit b0 1) (bit b0 0) rm reg) (b0 :: rm.encode reg) true
      (recRmReg op.toOp (bit b0 1) (bit b0 0) rm reg)
      (opText op.toOp ++ " " ++ (if bit b0 1 then regName reg (bit b0 0) else rmText4 (bit b0 0) rm) ++ ", " ++
        (if bit b0 1 then rmText4 (bit b0 0) rm else regName reg (bit b0 0)))
      (fun _ => True) (fun t => t.regs) := by
  have henc : encode (rmRegInstr op (bit b0 1) (bit b0 0) rm reg) = b0 :: rm.encode reg := by
    rw [encode_rmRegInstr hop, ← byte_eq_class34_fields]
  exact ruleHolds_of_encode ((rmRegInstr_wellFormed ..).trans hrm) henc (record_rmRegInstr ..) (render_recRmReg ..)
    (fun _ hpos hk => by simpa using decodeBytes_class4_take hop hrm reg hpos hk) fun _ _ => rfl

/-- Settles O18: the four first bytes `100010 d w` (R167). -/
theorem movRmRegMeetsItsRule : Obligations.MovRmRegMeetsItsRule := by
  unfold Obligations.MovRmRegMeetsItsRule
  exact fun rm reg hrm => ⟨
    ruleHolds_rmReg 0x88#8 (op := .mov) rfl hrm reg,
    ruleHolds_rmReg 0x89#8 (op := .mov) rfl hrm reg,
    ruleHolds_rmReg 0x8A#8 (op := .mov) rfl hrm reg,
    ruleHolds_rmReg 0x8B#8 (op := .mov) rfl hrm reg⟩

/-- Settles O19: the four first bytes `000000 d w` (R168). -/
theorem addRmRegMeetsItsRule : Obligations.AddRmRegMeetsItsRule := by
  unfold Obligations.AddRmRegMeetsItsRule
  exact fun rm reg hrm => ⟨
    ruleHolds_rmReg 0x00#8 (op := .add) rfl hrm reg,
    ruleHolds_rmReg 0x01#8 (op := .add) rfl hrm reg,
    ruleHolds_rmReg 0x02#8 (op := .add) rfl hrm reg,
    ruleHolds_rmReg 0x03#8 (op := .add) rfl hrm reg⟩

/-- Settles O20: the four first bytes `001010 d w` (R169). -/
theorem subRmRegMeetsItsRule : Obligations.SubRmRegMeetsItsRule := by
  unfold Obligations.SubRmRegMeetsItsRule
  exact fun rm reg hrm => ⟨
    ruleHolds_rmReg 0x28#8 (op := .sub) rfl hrm reg,
    ruleHolds_rmReg 0x29#8 (op := .sub) rfl hrm reg,
    ruleHolds_rmReg 0x2A#8 (op := .sub) rfl hrm reg,
    ruleHolds_rmReg 0x2B#8 (op := .sub) rfl hrm reg⟩

/-- Settles O21: the four first bytes `001110 d w` (R170). -/
theorem cmpRmRegMeetsItsRule : Obligations.CmpRmRegMeetsItsRule := by
  unfold Obligations.CmpRmRegMeetsItsRule
  exact fun rm reg hrm => ⟨
    ruleHolds_rmReg 0x38#8 (op := .cmp) rfl hrm reg,
    ruleHolds_rmReg 0x39#8 (op := .cmp) rfl hrm reg,
    ruleHolds_rmReg 0x3A#8 (op := .cmp) rfl hrm reg,
    ruleHolds_rmReg 0x3B#8 (op := .cmp) rfl hrm reg⟩

/-- Settles O22: the two bytes are the encoding of the operand `.mem0 6`, whose rule is that of every operand form; the
stream of R171 then meets 0x34, which is no first byte. -/
theorem classFourHasNoDirectAddress : Obligations.ClassFourHasNoDirectAddress := by
  unfold Obligations.ClassFourHasNoDirectAddress
  have hclass : ∀ b0 ∈ ([0x88, 0x89, 0x8A, 0x8B, 0x00, 0x01, 0x02, 0x03, 0x28, 0x29, 0x2A, 0x2B, 0x38, 0x39, 0x3A, 0x3B] :
      List Byte), (rmRegOp? (field b0 2 6)).isSome := by decide
  refine ⟨fun b0 hb0 reg m c hpre => ?_, decodeAt_of_encode rfl (by decide),
    render_recRmReg .mov true true (.mem0 6#3) 3#3, decodeAt_unrecognized (by decide)⟩
  obtain ⟨op, hop⟩ := Option.isSome_iff_exists.1 (hclass b0 hb0)
  obtain ⟨hdecode, hrec, -⟩ := ruleHolds_rmReg b0 hop (rm := .mem0 6#3) rfl reg
  refine ⟨_, hdecode m c hpre, ?_⟩
  rw [hrec]
  exact ⟨rfl, rfl, rfl, rfl, rfl, rfl, rfl, rfl, rmField_recRmReg op.toOp (bit b0 1) (bit b0 0) (.mem0 6#3) reg⟩

end Sys2Proof.Machine
end

section
/-! PROOFS, family 45_jcc_loop. Class 5 where the stream ends inside it, its record and its line, then the rule of all 20
opcodes at once; no condition is evaluated and no jump is taken (R180 to R201). -/

namespace Sys2Proof

/-- A jump or loop opcode in the last place lacks its displacement, whatever that would have been (R106). -/
theorem decodeBytes_jump_truncated {b0 disp : Byte} {i : Instr} (h : jump? b0 disp = some i) :
    decodeBytes [b0] = .truncatedInstruction 2 := by
  have hsome : (jump? b0 0#8).isSome := by rw [← isSome_jump? b0 disp, h]; rfl
  obtain ⟨h1, h2, h3, h4⟩ := not_class1234_of_jump? b0 hsome
  rw [decodeBytes_class5 h1 h2 h3 h4]
  exact if_pos hsome

/-- A record with a class 5 tag is that of a jump or loop (R180). -/
theorem record_eq_recJump {i : Instr} (h : i.record.classTag = .condJump ∨ i.record.classTag = .loop) :
    ∃ tag op disp, (tag = .condJump ∨ tag = .loop) ∧ i.record = recJump tag op disp := by
  obtain ⟨w, reg, n, v, hrec⟩ | ⟨op, w, n, v, hrec⟩ | ⟨op, s, w, rm, n, v, hrec⟩ | ⟨op, d, w, rm, reg, hrec⟩ | hjump :=
    record_cases i
  case inr.inr.inr.inr => exact hjump
  -- the other four builders write another tag
  all_goals
    rw [hrec] at h
    obtain htag | htag := h <;> cases htag

end Sys2Proof

namespace Sys2Proof.Machine

section
variable {tag : ClassTag} (htag : tag = .condJump ∨ tag = .loop)
include htag

/-- The line of a class 5 record: the raw signed displacement as a comment (R222). -/
theorem render_recJump (op : Op) (disp : Byte) :
    render (recJump tag op disp) = opText op ++ " ; " ++ dec (signed8 disp) := by
  obtain rfl | rfl := htag <;> rfl

/-- `Apply` of a class 5 record does nothing, `cx` included (R114, R201). -/
theorem applyRecord_recJump (mode : AccApply) (op : Op) (disp : Byte) (r : Regs) :
    applyRecord mode (recJump tag op disp) r = r := by
  obtain rfl | rfl := htag <;> rfl

/-- A class 5 rule, whatever the opcode, from its row of the table (R82) and its record: a stream can end inside it after
the first byte only. -/
theorem jumpRule {i : Byte → Instr} {b0 : Byte} {op : Op} (hjump : ∀ disp, jump? b0 disp = some (i disp))
    (hrec : ∀ disp, (i disp).record = recJump tag op disp) : JumpRule i b0 tag op (opText op) := by
  intro disp
  obtain ⟨hwf, henc⟩ := encode_of_jump? (hjump disp)
  refine ruleHolds_of_encode hwf henc (hrec disp) (render_recJump htag op disp) (fun k hpos hk => ?_)
    fun s _ => applyRecord_recJump htag s.cfg.accApply op disp s.regs
  obtain rfl : k = 1 := Nat.le_antisymm (Nat.le_of_lt_succ hk) hpos
  exact decodeBytes_jump_truncated (hjump disp)

end

/-- Settles O23: the eight opcodes 0x70 to 0x77, each by its row of the opcode table (R82). -/
theorem overflowToAboveJumpsMeetTheirRules : Obligations.OverflowToAboveJumpsMeetTheirRules := by
  unfold Obligations.OverflowToAboveJumpsMeetTheirRules
  refine ⟨?jo, ?jno, ?jb, ?jnb, ?jz, ?jnz, ?jbe, ?ja⟩
  all_goals exact jumpRule (.inl rfl) (fun _ => rfl) (fun _ => rfl)

/-- Settles O24: the eight opcodes 0x78 to 0x7F, each by its row of the opcode table (R82). -/
theorem signToGreaterJumpsMeetTheirRules : Obligations.SignToGreaterJumpsMeetTheirRules := by
  unfold Obligations.SignToGreaterJumpsMeetTheirRules
  refine ⟨?js, ?jns, ?jp, ?jnp, ?jl, ?jnl, ?jle, ?jg⟩
  all_goals exact jumpRule (.inl rfl) (fun _ => rfl) (fun _ => rfl)

/-- Settles O25: the four opcodes 0xE0 to 0xE3; they differ from the jumps in the tag alone, so `cx` is not touched. -/
theorem loopFamilyMeetsItsRules : Obligations.LoopFamilyMeetsItsRules := by
  unfold Obligations.LoopFamilyMeetsItsRules
  refine ⟨?loopnz, ?loopz, ?loop, ?jcxz⟩
  all_goals exact jumpRule (.inr rfl) (fun _ => rfl) (fun _ => rfl)

/-- Settles O26: such an instruction retires its record, and `Apply` of a class 5 record leaves any register file as it
was. -/
theorem jumpsNeverTransferControl : Obligations.JumpsNeverTransferControl := by
  unfold Obligations.JumpsNeverTransferControl
  intro i s hclass
  obtain ⟨tag, op, disp, htag, hrec⟩ := record_eq_recJump hclass
  have hregs (r : Regs) : applyRecord s.cfg.accApply i.record r = r := by
    rw [hrec, applyRecord_recJump htag]
  obtain ⟨t, hx, hret⟩ := exists_exec_retired (congrArg Record.length hrec) (hregs s.regs)
  have hother (r : Regs) : exec i (s.setRegs r) = .next (t.setRegs r) := by
    rw [exec_setRegs r hx, hregs]
  rw [hrec, render_recJump htag] at hret
  exact ⟨t, signed8 disp, hx, by rw [hrec]; rfl, by rw [hrec]; exact hret, hother⟩

end Sys2Proof.Machine
end

section
/-! PROOFS, family 48_render_syntax. How every instruction's line begins, and the text of a memory operand with and
without a displacement (R211, R213, R223, R226). -/

namespace Sys2Proof

/-! ## A sign-extended displacement (R70) -/

@[simp] theorem signed16_sext16 (d : Byte) : signed16 (sext16 d) = signed8 d :=
  BitVec.toInt_signExtend_of_le (by decide)

@[simp] theorem sext16_zero : sext16 0#8 = 0#16 := rfl

/-- Only a zero byte extends to zero: the byte is the low half of its extension. -/
theorem sext16_ne_zero {d : Byte} (h : d ≠ 0#8) : sext16 d ≠ 0#16 := fun hzero =>
  h (by rw [← loByte_sext16 d, hzero]; rfl)

end Sys2Proof

namespace Sys2Proof.Machine

/-! ## The mnemonic and its space (R211, R223) -/

/-- The line of a class 2 record (R219). -/
theorem render_recArithImmAcc (op : Op) (w : Bool) (n : Nat) (v : Word) :
    render (recArithImmAcc op w n v) = opText op ++ " " ++ regName 0#3 w ++ ", " ++ immText w v := rfl

/-- A line with two operands goes on after its mnemonic and one space. -/
theorem twoOperandLine_eq (op : Op) (dst src : Text) :
    opText op ++ " " ++ dst ++ ", " ++ src = opText op ++ " " ++ (dst ++ ", " ++ src) := by
  simp only [String.append_assoc]

/-- The comment of a class 5 line stands after the mnemonic and one space. -/
theorem jumpLine_eq (op : Op) (disp : Text) : opText op ++ " ; " ++ disp = opText op ++ " " ++ ("; " ++ disp) := by
  have hsemi : " ; " = " " ++ "; " := rfl
  rw [hsemi]
  simp only [String.append_assoc]

/-- Every instruction's line is its mnemonic, one space, and more. -/
theorem render_eq_opText_space_append (i : Instr) :
    ∃ rest, render i.record = opText i.record.op ++ " " ++ rest := by
  obtain ⟨w, reg, n, v, h⟩ | ⟨op, w, n, v, h⟩ | ⟨op, s, w, rm, n, v, h⟩ | ⟨op, d, w, rm, reg, h⟩ |
    ⟨tag, op, disp, htag, h⟩ := record_cases i <;> rw [h]
  · exact ⟨_, twoOperandLine_eq .mov (regName reg w) (immText w v)⟩
  · exact ⟨_, (render_recArithImmAcc ..).trans (twoOperandLine_eq ..)⟩
  · exact ⟨_, (render_recArithImmRm ..).trans (twoOperandLine_eq ..)⟩
  · exact ⟨_, (render_recRmReg ..).trans (twoOperandLine_eq ..)⟩
  · exact ⟨_, (render_recJump htag ..).trans (jumpLine_eq ..)⟩

/-- Settles O47: the line of each class begins with its mnemonic and a space, and no mnemonic begins with `;`. -/
theorem instructionLinesAreNoComments : Obligations.InstructionLinesAreNoComments := by
  unfold Obligations.InstructionLinesAreNoComments
  exact fun i => ⟨isDebugLine_render i, render_eq_opText_space_append i⟩

/-! ## The text of a memory operand (R213, R226) -/

@[simp] theorem memText_zero (rm : Reg3) : memText rm (some 0#16) = "[" ++ baseText rm ++ "]" := rfl

theorem memText_of_ne_zero (rm : Reg3) {d : Word} (h : d ≠ 0#16) :
    memText rm (some d) = "[" ++ baseText rm ++ " + " ++ dec (signed16 d) ++ "]" := if_neg h

theorem rmText4_mem8_zero (w : Bool) (rm : Reg3) : rmText4 w (.mem8 rm 0#8) = rmText4 w (.mem0 rm) := by
  simp [rmText4]

theorem rmText4_mem16_zero (w : Bool) (rm : Reg3) : rmText4 w (.mem16 rm 0#16) = rmText4 w (.mem0 rm) :=
  memText_zero rm

theorem rmText4_mem8_of_ne_zero (w : Bool) (rm : Reg3) {d : Byte} (h : d ≠ 0#8) :
    rmText4 w (.mem8 rm d) = "[" ++ baseText rm ++ " + " ++ dec (signed8 d) ++ "]" := by
  rw [← signed16_sext16]
  exact memText_of_ne_zero rm (sext16_ne_zero h)

theorem rmText4_mem16_of_ne_zero (w : Bool) (rm : Reg3) {d : Word} (h : d ≠ 0#16) :
    rmText4 w (.mem16 rm d) = "[" ++ baseText rm ++ " + " ++ dec (signed16 d) ++ "]" :=
  memText_of_ne_zero rm h

/-- Settles O49: the two rules for a zero and a nonzero displacement, by size; the three literals are the nonzero rule
with its decimal evaluated. -/
theorem zeroDisplacementIsElided : Obligations.ZeroDisplacementIsElided := by
  unfold Obligations.ZeroDisplacementIsElided
  have happend (base num : Text) : "[" ++ base ++ " + " ++ num ++ "]" = "[" ++ base ++ (" + " ++ num ++ "]") := by
    simp only [String.append_assoc]
  intro rm
  refine ⟨rmText4_mem8_zero true rm, rmText4_mem16_zero true rm, fun d hd => rmText4_mem8_of_ne_zero true rm hd,
    fun d hd => rmText4_mem16_of_ne_zero true rm hd, ?five, ?minusTwo, ?twoFiftySix, rfl, rfl, rfl⟩
  case five => exact (rmText4_mem8_of_ne_zero true rm (by decide)).trans (happend _ "5")
  case minusTwo => exact (rmText4_mem8_of_ne_zero true rm (by decide)).trans (happend _ "-2")
  case twoFiftySix => exact (rmText4_mem16_of_ne_zero true rm (by decide)).trans (happend _ "256")

end Sys2Proof.Machine
end

section
/-! PROOFS, family 60_exceptions. The length an instruction needs is known from its first byte and its mod byte, and six
bytes are enough for any; so truncated bytes begin an encoding of the length named (R106, R242). Then the error taken by
a step (R246). -/

namespace Sys2Proof

/-! ## The length known from the first bytes (R106) -/

/-- The length a decoder's answer names: that of the instruction decoded, or the number of bytes needed. -/
def Decoded.needed? : Decoded → Option Nat
  | .ok i => some i.record.length
  | .unrecognizedOpcode _ => none
  | .truncatedInstruction needed => some needed

/-- A first byte of class 3 or 4: the length is not known before the mod byte (R106 stage A). -/
def HasModByte (b0 : Byte) : Prop := field b0 2 6 = 0b100000#6 ∨ (rmRegOp? (field b0 2 6)).isSome = true

theorem needed?_decodeMovImmReg (w : Bool) (reg : Reg3) (rest : List Byte) :
    (decodeMovImmReg w reg rest).needed? = some (if w then 3 else 2) := by
  unfold decodeMovImmReg
  split <;> rfl

theorem needed?_decodeArithImmAcc (op : ArithOp) (w : Bool) (rest : List Byte) :
    (decodeArithImmAcc op w rest).needed? = some (if w then 3 else 2) := by
  unfold decodeArithImmAcc
  split <;> simp [Decoded.needed?]

theorem needed?_decodeArithImmRm (op : ArithOp) (s w : Bool) (mod : BitVec 2) (rm : Reg3) (rest : List Byte) :
    (decodeArithImmRm op s w mod rm rest).needed? = some (2 + dispSize3 mod rm + immSize3 s w) := by
  unfold decodeArithImmRm
  cases hread : rmOperand3 mod rm rest with
  | none => rfl
  | some read =>
    obtain ⟨operand, more⟩ := read
    obtain ⟨hok, rfl, rfl, -⟩ := rmOperand3_reads hread
    rw [dispSize3_encoded hok]
    unfold immSize3
    split_ifs
    · match more with
      | [] | [_] => rfl
      | lo :: hi :: _ => exact congrArg some (rmInstr16_length op operand (mkWord hi lo))
    · match more with
      | [] => rfl
      | lo :: _ => exact congrArg some (rmInstr8_length op s w operand lo)

theorem needed?_decodeRmReg (op : RmRegOp) (d w : Bool) (mod : BitVec 2) (reg rm : Reg3) (rest : List Byte) :
    (decodeRmReg op d w mod reg rm rest).needed? = some (2 + dispSize4 mod) := by
  unfold decodeRmReg
  cases hread : rmOperand4 mod rm rest with
  | none => rfl
  | some read =>
    obtain ⟨operand, more⟩ := read
    obtain ⟨hok, rfl, rfl, -⟩ := rmOperand4_reads hread
    rw [dispSize4_encoded hok]
    exact congrArg some (rmRegInstr_length op d w operand reg)

theorem needed?_decodeClass3 (b0 b1 : Byte) (more : List Byte) :
    (decodeClass3 b0 (b1 :: more)).needed? = (subOp? (field b1 3 3)).map fun _ =>
      2 + dispSize3 (field b1 6 2) (field b1 0 3) + immSize3 (bit b0 1) (bit b0 0) := by
  rw [decodeClass3]
  cases subOp? (field b1 3 3) with
  | none => rfl
  | some op => exact needed?_decodeArithImmRm ..

theorem needed?_decodeClass5 (b0 : Byte) (rest : List Byte) :
    (decodeClass5 b0 rest).needed? = if (jump? b0 0#8).isSome then some 2 else none := by
  cases rest with
  | nil => exact apply_ite Decoded.needed? ..
  | cons b1 more =>
    rw [decodeClass5, ← isSome_jump? b0 b1]
    cases hjump : jump? b0 b1 with
    | none => rfl
    | some i => exact congrArg some (jump?_length hjump)

/-- Further bytes do not change the length named, once the mod byte of classes 3 and 4 is there. -/
theorem needed?_decodeBytes_append {b0 : Byte} {rest : List Byte} (h : ¬ (rest = [] ∧ HasModByte b0)) (more : List Byte) :
    (decodeBytes (b0 :: (rest ++ more))).needed? = (decodeBytes (b0 :: rest)).needed? := by
  by_cases h1 : field b0 4 4 = 0b1011#4
  · simp only [decodeBytes_class1 h1, needed?_decodeMovImmReg]
  cases h2 : accOp? (field b0 1 7) with
  | some op => simp only [decodeBytes_class2 h2, needed?_decodeArithImmAcc]
  | none =>
    by_cases h3 : field b0 2 6 = 0b100000#6
    · cases rest with
      | nil => exact absurd ⟨rfl, .inl h3⟩ h
      | cons b1 rest => simp only [decodeBytes_class3 h3, List.cons_append, needed?_decodeClass3]
    cases h4 : rmRegOp? (field b0 2 6) with
    | some op =>
      cases rest with
      | nil => exact absurd ⟨rfl, .inr (h4 ▸ rfl)⟩ h
      | cons b1 rest => simp only [decodeBytes_class4 h4, List.cons_append, decodeClass4, needed?_decodeRmReg]
    | none => simp only [decodeBytes_class5 h1 h2 h3 h4, needed?_decodeClass5]

/-- A lone first byte of class 3 or 4 asks for its mod byte. -/
theorem decodeBytes_singleton_of_hasModByte {b0 : Byte} (h : HasModByte b0) :
    decodeBytes [b0] = .truncatedInstruction 2 := by
  obtain h3 | h4 := h
  · exact decodeBytes_class3 h3 []
  · obtain ⟨op, hop⟩ := Option.isSome_iff_exists.1 h4
    exact decodeBytes_class4 hop []

/-! ## Six bytes are enough (R75) -/

/-- After its mod byte class 3 reads at most two displacement or address bytes and two immediate bytes. -/
theorem decodeArithImmRm_ne_truncated {op : ArithOp} {s w : Bool} {mod : BitVec 2} {rm : Reg3} {b1 b2 b3 b4 : Byte}
    {rest : List Byte} {n : Nat} :
    decodeArithImmRm op s w mod rm (b1 :: b2 :: b3 :: b4 :: rest) ≠ .truncatedInstruction n := by
  unfold decodeArithImmRm rmOperand3 rmOperand4
  split_ifs <;> nofun

theorem decodeRmReg_ne_truncated {op : RmRegOp} {d w : Bool} {mod : BitVec 2} {reg rm : Reg3} {b1 b2 : Byte}
    {rest : List Byte} {n : Nat} : decodeRmReg op d w mod reg rm (b1 :: b2 :: rest) ≠ .truncatedInstruction n := by
  unfold decodeRmReg rmOperand4
  split_ifs <;> nofun

theorem decodeClass5_ne_truncated {b0 b1 : Byte} {rest : List Byte} {n : Nat} :
    decodeClass5 b0 (b1 :: rest) ≠ .truncatedInstruction n := by
  rw [decodeClass5]
  split <;> nofun

/-- No instruction needs more than the longest one has. -/
theorem decodeBytes_ne_truncated {bytes : List Byte} (hlen : Config.maxLen ≤ bytes.length) (n : Nat) :
    decodeBytes bytes ≠ .truncatedInstruction n := by
  match bytes, hlen with
  | b0 :: b1 :: b2 :: b3 :: b4 :: b5 :: rest, _ =>
    change decodeFrom b0 _ ≠ _
    unfold decodeFrom
    split
    · cases bit b0 3 <;> nofun
    · split
      · cases bit b0 0 <;> nofun
      · split
        · rw [decodeClass3]
          split
          · exact decodeArithImmRm_ne_truncated
          · nofun
        · split
          · exact decodeRmReg_ne_truncated
          · exact decodeClass5_ne_truncated

/-! ## Truncated bytes and the encodings they begin (R242) -/

/-- Bytes that begin an encoding and do not decode to it lack some of it. -/
theorem length_lt_of_prefix_encode {bytes : List Byte} {i : Instr} (hwf : i.wellFormed = true)
    (hpre : bytes <+: encode i) (hne : decodeBytes bytes ≠ .ok i) : bytes.length < (encode i).length := by
  refine hpre.length_le.lt_of_ne fun hlen => hne ?_
  rw [hpre.eq_of_length hlen, ← List.append_nil (encode i)]
  exact decodeBytes_encode hwf []

section
variable {b0 : Byte} {rest : List Byte} {n : Nat} (h : decodeBytes (b0 :: rest) = .truncatedInstruction n)
include h

section
variable (hmod : ¬ (rest = [] ∧ HasModByte b0))
include hmod

/-- The number of bytes needed is the length of every encoding the bytes begin. -/
theorem needed_eq_length_encode {i : Instr} (hwf : i.wellFormed = true) (hpre : b0 :: rest <+: encode i) :
    n = (encode i).length := by
  obtain ⟨more, henc⟩ := hpre
  have hi : decodeBytes (b0 :: (rest ++ more)) = .ok i := by
    rw [← List.cons_append, henc, ← List.append_nil (encode i)]
    exact decodeBytes_encode hwf []
  have hsame := needed?_decodeBytes_append hmod more
  rw [h, hi] at hsame
  exact (Option.some.inj hsame).symm.trans (encodedLength i).1.symm

/-- With bytes added up to the longest length an instruction is decoded, and the truncated bytes begin it. -/
theorem exists_prefix_encode_of_truncated : ∃ i : Instr, i.wellFormed = true ∧ b0 :: rest <+: encode i := by
  have hsame := needed?_decodeBytes_append hmod (List.replicate Config.maxLen 0#8)
  rw [h] at hsame
  cases hd : decodeBytes (b0 :: (rest ++ List.replicate Config.maxLen 0#8)) with
  | unrecognizedOpcode b => rw [hd] at hsame; cases hsame
  | truncatedInstruction k =>
    refine absurd hd (decodeBytes_ne_truncated ?_ k)
    simp only [List.length_cons, List.length_append, List.length_replicate]
    omega
  | ok i =>
    obtain ⟨hwf, hpre⟩ := decodeBytes_beginsWith hd
    obtain hle | ⟨more, hmore⟩ := List.prefix_or_prefix_of_prefix (List.prefix_append (b0 :: rest) _) hpre
    · exact ⟨i, hwf, hle⟩
    · rw [← hmore, decodeBytes_encode hwf] at h
      cases h

end

/-- A lone class 3 or 4 byte needs two; any other truncated bytes need the length of an encoding they begin. -/
theorem needed_bounds : rest.length + 1 < n ∧ n ≤ 6 := by
  by_cases hmod : rest = [] ∧ HasModByte b0
  · obtain ⟨rfl, hb0⟩ := hmod
    rw [decodeBytes_singleton_of_hasModByte hb0] at h
    cases h
    decide
  · obtain ⟨i, hwf, hpre⟩ := exists_prefix_encode_of_truncated h hmod
    obtain ⟨hlen, -, hmax⟩ := encodedLength i
    rw [needed_eq_length_encode h hmod hwf hpre]
    exact ⟨length_lt_of_prefix_encode hwf hpre (by rw [h]; nofun), hlen.trans_le hmax⟩

end

/-- A first byte that begins an instruction is truncated in the last place: it is shorter than any instruction, and an
unrecognised byte would be so whatever follows. -/
theorem decodeBytes_singleton_truncated {i : Instr} (hwf : i.wellFormed = true) {b0 : Byte}
    (hhead : (encode i).head? = some b0) : ∃ n, decodeBytes [b0] = .truncatedInstruction n := by
  cases hd : decodeBytes [b0] with
  | truncatedInstruction n => exact ⟨n, rfl⟩
  | ok j =>
    obtain ⟨-, hmin, -⟩ := encodedLength j
    exact absurd (hmin.trans (decodeBytes_length hd)) (by simp)
  | unrecognizedOpcode b =>
    obtain rfl : b0 = b := Option.some.inj (decodeBytes_unrecognized_head hd)
    obtain ⟨rest, henc⟩ := List.head?_eq_some_iff.1 hhead
    have hok := decodeBytes_encode hwf []
    rw [List.append_nil, henc, decodeBytes_unrecognized_of_singleton hd] at hok
    cases hok

end Sys2Proof

namespace Sys2Proof.Machine

theorem window_eq_cons {m : Memory} {c : Nat} {b : Byte} (h : m.read c = some b) (n : Nat) :
    m.window c (n + 1) = b :: m.window (c + 1) n := by
  rw [Memory.window, h]

theorem decodeAt_eq_truncated {m : Memory} {c o n a : Nat} (h : decodeAt m c = .err (.truncatedInstruction o n a)) :
    decodeBytes (m.window c Config.maxLen) = .truncatedInstruction n ∧ o = c ∧ a = m.len - c := by
  obtain ⟨i, -, hd⟩ | ⟨b, -, hd⟩ | ⟨k, hk, hd⟩ := decodeAt_cases m c <;> rw [hd] at h <;> cases h
  exact ⟨hk, rfl, rfl⟩

/-- Settles O36: the window is a lone byte that lacks its mod byte, or it begins an encoding of the length needed. -/
theorem truncationIsCounted : Obligations.TruncationIsCounted := by
  unfold Obligations.TruncationIsCounted
  refine ⟨fun m c o n a hc hd => ?_, fun m c i hwf hlen hread => ?_⟩
  · obtain ⟨htrunc, rfl, rfl⟩ := decodeAt_eq_truncated hd
    have hlen := window_length m 5 (o + 1)
    rw [Config.maxLen, window_eq_cons (read_eq_some hc) 5] at htrunc ⊢
    obtain ⟨hlt, hle⟩ := needed_bounds htrunc
    have hone : m.window (o + 1) 5 = [] ↔ m.len - o = 1 := by rw [← List.length_eq_zero_iff]; omega
    refine ⟨rfl, rfl, by omega, by omega, hle, fun b hb => ?_⟩
    obtain rfl := Option.some.inj ((read_eq_some hc).symm.trans hb)
    split
    next hlone =>
      obtain ⟨ha, hb0⟩ := hlone
      rw [hone.2 ha, decodeBytes_singleton_of_hasModByte hb0] at htrunc
      exact (Decoded.truncatedInstruction.inj htrunc).symm
    next hlone =>
      have hmod := fun hif => hlone (And.imp_left hone.1 hif)
      exact ⟨exists_prefix_encode_of_truncated htrunc hmod, fun i => needed_eq_length_encode htrunc hmod⟩
  · have hb := read_eq_some (m := m) (a := c) (by omega)
    obtain ⟨n, hd⟩ := decodeBytes_singleton_truncated hwf (hread.symm.trans hb)
    have hwin : m.window c Config.maxLen = [cellsGet m.cells c] := by
      rw [Config.maxLen, window_eq_cons hb, window_past_end hlen.le]
    exact ⟨n, decodeAt_truncated_of_window hwin (by simp [Config.maxLen]) hd⟩

/-- Settles O32: the step is `State.raiseError` of the record, and the record's offset is the cursor. -/
theorem takingAnErrorLatchesAndStops : Obligations.TakingAnErrorLatchesAndStops := by
  unfold Obligations.TakingAnErrorLatchesAndStops
  intro s e hcap hrun hne hd
  exact ⟨_, step_of_err hcap hrun hne hd, rfl, rfl, decodeAt_err_offset hd, rfl, rfl, rfl, rfl, rfl, rfl⟩

end Sys2Proof.Machine
end
